-- ==== Sys2Proof/Word.lean ====
section
/-! DEFINITION. The words of SHC-CORE: bytes of the stores and buffers, and the 32-bit command word. -/

namespace Sys2Proof

/-- A byte: bit 7 is the most significant (rule R11). -/
abbrev Byte := BitVec 8

/-- A command word, `cmd_word[31:0]` (rule R90). -/
abbrev Word := BitVec 32

end Sys2Proof
end

