-- ==== Sys2Proof/Syntax.lean ====
section
/-! DEFINITION. The commands of SHC-CORE, one constructor per row of the opcode table (rules R94, R100). -/

namespace Sys2Proof

/-- A command. Every operand is the unsigned value of its field as it stands (rules R91, R93). -/
inductive Instr where
  /-- NOP (R175). -/
  | nop
  /-- RDBITS count (R113). -/
  | rdbits (count : BitVec 4)
  /-- WRBITS count, data (R117); its words with count 0 are `flush`'s (R100). -/
  | wrbits (count : BitVec 4) (data : Byte)
  /-- FLUSH, the pseudo-command: WRBITS with count 0, whatever `data` holds (R100, R119). -/
  | flush (data : Byte)
  /-- RDCHUNK w (R132). -/
  | rdchunk (w : BitVec 16)
  /-- WRCHUNK w (R136). -/
  | wrchunk (w : BitVec 16)
  /-- ADDINC w (R156). -/
  | addinc (w : BitVec 16)
  /-- TBLRD tidx (R163). -/
  | tblrd (tidx : BitVec 24)
  /-- LDCB bidx (R176). -/
  | ldcb (bidx : BitVec 16)
  /-- STCB bidx, data (R178). -/
  | stcb (bidx : BitVec 16) (data : Byte)
  /-- RDSR sel (R180). -/
  | rdsr (sel : BitVec 4)
  /-- CHRESET (R182). -/
  | chreset
  /-- TBLRESET (R184). -/
  | tblreset
  deriving DecidableEq, Repr

end Sys2Proof
end

