-- ==== Sys2Proof/WellFormed.lean ====
section
/-! DEFINITION. Which terms of `Instr` stand for a command word of their own. -/

namespace Sys2Proof

/-- A WRBITS with count 0 is written `flush` (rule R100; log entry 10); the field widths are in the operands' types.
Counts 9 to 15, widths outside 1..W_MAX, indices out of range and selectors 7 to 15 are encodable: their commands
answer with an error status (rules R93, R97). -/
def Instr.wellFormed : Instr → Bool
  | .wrbits count _ => count != 0#4
  | .nop | .rdbits _ | .flush _ | .rdchunk _ | .wrchunk _ | .addinc _ | .tblrd _ | .ldcb _ | .stcb _ _
  | .rdsr _ | .chreset | .tblreset => true

end Sys2Proof
end

