-- ==== Sys2Proof/Decode.lean ====
section
/-! DEFINITION. The command word: decoder, encoder, and the opcode map as match and mask pairs (30_encoding). -/

namespace Sys2Proof

/-- Why a word is no command (rules R96, R97). -/
inductive Illegal where
  /-- `op` is in 0xC..0xF (R98). -/
  | reservedOpcode
  /-- A bit that the command's format marks reserved is 1 (R96). -/
  | reservedBit
  deriving DecidableEq, Repr

/-- `op`, bits [31:28] (R91). -/
def opField (c : Word) : BitVec 4 := c.extractLsb' 28 4
/-- `count`, bits [27:24] (R91). -/
def countField (c : Word) : BitVec 4 := c.extractLsb' 24 4
/-- `data`, bits [23:16] (R91). -/
def dataField (c : Word) : Byte := c.extractLsb' 16 8
/-- `w` or `bidx`, bits [15:0] (R91). -/
def lowField (c : Word) : BitVec 16 := c.extractLsb' 0 16
/-- `tidx`, bits [23:0] (R91). -/
def tidxField (c : Word) : BitVec 24 := c.extractLsb' 0 24
/-- `sel`, bits [3:0] (R91). -/
def selField (c : Word) : BitVec 4 := c.extractLsb' 0 4

/-- The command `i`, unless a reserved bit is set (R96). -/
def unlessReserved (clear : Bool) (i : Instr) : Except Illegal Instr :=
  if clear then .ok i else .error .reservedBit

/-- Decoding is total on all words and needs no state (R95). The formats are those of R92. -/
def decode (c : Word) : Except Illegal Instr :=
  match (opField c).toNat with
  | 0x0 => unlessReserved (c.extractLsb' 0 28 == 0#28) .nop
  | 0x1 => unlessReserved (c.extractLsb' 0 24 == 0#24) (.rdbits (countField c))
  | 0x2 => unlessReserved (lowField c == 0#16)
      (if countField c = 0#4 then .flush (dataField c) else .wrbits (countField c) (dataField c))
  | 0x3 => unlessReserved (c.extractLsb' 16 12 == 0#12) (.rdchunk (lowField c))
  | 0x4 => unlessReserved (c.extractLsb' 16 12 == 0#12) (.wrchunk (lowField c))
  | 0x5 => unlessReserved (c.extractLsb' 16 12 == 0#12) (.addinc (lowField c))
  | 0x6 => unlessReserved (countField c == 0#4) (.tblrd (tidxField c))
  | 0x7 => unlessReserved (c.extractLsb' 16 12 == 0#12) (.ldcb (lowField c))
  | 0x8 => unlessReserved (countField c == 0#4) (.stcb (lowField c) (dataField c))
  | 0x9 => unlessReserved (c.extractLsb' 4 24 == 0#24) (.rdsr (selField c))
  | 0xA => unlessReserved (c.extractLsb' 0 28 == 0#28) .chreset
  | 0xB => unlessReserved (c.extractLsb' 0 28 == 0#28) .tblreset
  | _ => .error .reservedOpcode

/-- `op << 28 | count << 24 | data << 16 | (w or bidx or tidx or sel)`, absent fields 0 (R99). -/
def lineWord (op count : BitVec 4) (data : Byte) (low : BitVec 24) : Word :=
  op.setWidth 32 <<< 28 ||| count.setWidth 32 <<< 24 ||| data.setWidth 32 <<< 16 ||| low.setWidth 32

/-- The word of a command: its opcode of R94, its operands by R99. -/
def encode : Instr → Word
  | .nop => lineWord 0x0 0 0 0
  | .rdbits count => lineWord 0x1 count 0 0
  | .wrbits count data => lineWord 0x2 count data 0
  | .flush data => lineWord 0x2 0 data 0
  | .rdchunk w => lineWord 0x3 0 0 (w.setWidth 24)
  | .wrchunk w => lineWord 0x4 0 0 (w.setWidth 24)
  | .addinc w => lineWord 0x5 0 0 (w.setWidth 24)
  | .tblrd tidx => lineWord 0x6 0 0 tidx
  | .ldcb bidx => lineWord 0x7 0 0 (bidx.setWidth 24)
  | .stcb bidx data => lineWord 0x8 0 data (bidx.setWidth 24)
  | .rdsr sel => lineWord 0x9 0 0 (sel.setWidth 24)
  | .chreset => lineWord 0xA 0 0 0
  | .tblreset => lineWord 0xB 0 0 0

/-- One row of the opcode map: a word `c` is this command iff `c &&& mask = mat` (R94). -/
structure OpRow where
  mat : Word
  mask : Word
  deriving DecidableEq, Repr

/-- The twelve rows of rule R94, in its order. -/
def opcodeMap : List OpRow :=
  [ ⟨0x00000000, 0xFFFFFFFF⟩, ⟨0x10000000, 0xF0FFFFFF⟩, ⟨0x20000000, 0xF000FFFF⟩, ⟨0x30000000, 0xFFFF0000⟩,
    ⟨0x40000000, 0xFFFF0000⟩, ⟨0x50000000, 0xFFFF0000⟩, ⟨0x60000000, 0xFF000000⟩, ⟨0x70000000, 0xFFFF0000⟩,
    ⟨0x80000000, 0xFF000000⟩, ⟨0x90000000, 0xFFFFFFF0⟩, ⟨0xA0000000, 0xFFFFFFFF⟩, ⟨0xB0000000, 0xFFFFFFFF⟩ ]

/-- The pseudo-command's row, a subset of WRBITS's (R100). -/
def flushRow : OpRow := ⟨0x20000000, 0xFF00FFFF⟩

/-- Does the word match the row (R94)? -/
def OpRow.matches (r : OpRow) (c : Word) : Bool := c &&& r.mask == r.mat

/-- The row of the opcode table that a command belongs to (R94, R100). -/
def Instr.row : Instr → OpRow
  | .nop => ⟨0x00000000, 0xFFFFFFFF⟩
  | .rdbits _ => ⟨0x10000000, 0xF0FFFFFF⟩
  | .wrbits _ _ => ⟨0x20000000, 0xF000FFFF⟩
  | .flush _ => flushRow
  | .rdchunk _ => ⟨0x30000000, 0xFFFF0000⟩
  | .wrchunk _ => ⟨0x40000000, 0xFFFF0000⟩
  | .addinc _ => ⟨0x50000000, 0xFFFF0000⟩
  | .tblrd _ => ⟨0x60000000, 0xFF000000⟩
  | .ldcb _ => ⟨0x70000000, 0xFFFF0000⟩
  | .stcb _ _ => ⟨0x80000000, 0xFF000000⟩
  | .rdsr _ => ⟨0x90000000, 0xFFFFFFF0⟩
  | .chreset => ⟨0xA0000000, 0xFFFFFFFF⟩
  | .tblreset => ⟨0xB0000000, 0xFFFFFFFF⟩

/-- The opcode table's numbering: `w` holds the `nbits` lowest bits of the 32-bit command word and every bit above them
is 0. The word is a value on a port and has no byte order (R90). -/
def decodeTableWord (nbits w : Nat) : Option Instr :=
  match decode (BitVec.ofNat 32 (w % 2 ^ nbits)) with
  | .ok i => some i
  | .error _ => none

end Sys2Proof
end

