-- ==== Sys2Proof/Config.lean ====
section
/-! DEFINITION. What an implementation of SHC-CORE fixes (rule R7), and the values the spec leaves open. -/

namespace Sys2Proof

/-- The implementation parameters of rule R7 that stay fixed for the machine. The other two of the spec's open
parameters stand elsewhere: `CB_INIT` is carried by each hardware reset (log entry 17), `ALIAS` is the
constructor of the machine's stores (log entry 15). -/
structure Params where
  /-- `W_MAX`, the largest chunk width in bits, 1..65535. -/
  wMax : Nat
  /-- `TABLE_LOG2`, log2 of the number of entry slots, 0..24. -/
  tableLog2 : Nat
  deriving DecidableEq, Repr

/-- The ranges of rule R7. -/
abbrev Params.wf (p : Params) : Prop :=
  1 ≤ p.wMax ∧ p.wMax ≤ 65535 ∧ p.tableLog2 ≤ 24

/-- The parameters of `State.reset`: the spec's suggested test configuration (decision D2).
DESIGN CHOICE, log entry 1: the spec fixes no values. -/
def Params.default : Params := { wMax := 65535, tableLog2 := 16 }

/-- A free value for `RPOS` while the channel is poisoned (rules R26, R35; log entries 7 and 8). -/
opaque Config.freeRpos : Nat → BitVec 64

/-- A free value for `PBITS` while the channel is poisoned (rules R26, R35; log entries 7 and 8). -/
opaque Config.freePbits : Nat → BitVec 8

/-- A free value for `PCNT` while the channel is poisoned (rules R26, R35; log entries 7 and 8). -/
opaque Config.freePcnt : Nat → BitVec 3

/-- What slot `i` of the entry RAM holds in its pattern field before anything is written (rule R30; log entry 9). -/
opaque Config.freeSlotPat : Nat → List Byte

/-- What slot `i` of the entry RAM holds in its width field before anything is written (rule R30; log entry 9). -/
opaque Config.freeSlotWidth : Nat → BitVec 16

/-- What slot `i` of the entry RAM holds in its count field before anything is written (rule R30; log entry 9). -/
opaque Config.freeSlotCount : Nat → BitVec 32

end Sys2Proof
end

