-- ==== Sys2Proof/Machine/State.lean ====
section
/-! DEFINITION. The state of SHC-CORE as plain data (rule R20), with the environment's stores, the responders' coming
answers and the host's coming actions beside it (rules R9, R40; log entries 3 to 6), and the state after reset. -/

namespace Sys2Proof.Machine

/-- The four agents of rule R9. -/
inductive Agent where
  /-- The command sequencer: its steps are whole commands (R70). -/
  | core
  /-- The Driver, which issues commands and may assert reset. -/
  | host
  /-- The backing store on the read port. -/
  | rsResponder
  /-- The backing store on the write port. -/
  | wsResponder
  deriving DecidableEq, Repr

/-- The contents of a store: a finite byte sequence (R61, R63) as (address, byte) cells, addresses rising from 0
without a gap. An address that is not listed holds no byte: a read there is end of stream (R62). -/
abbrev Memory := List Host.Cell

/-- What the two ports are bound to (R76): the constructor is the parameter `ALIAS` (log entry 15). -/
inductive Stores where
  /-- `ALIAS = false`: RS and WS are two stores. -/
  | separate (rs ws : Memory)
  /-- `ALIAS = true`: both ports are bound to one store. -/
  | shared (store : Memory)
  deriving DecidableEq, Repr

/-- The RS responder's choice for one `StoreRead` (R62, R66). -/
inductive ReadAnswer where
  /-- `err = 0`: the bytes of RS that exist are delivered. -/
  | ok
  /-- `err = 0`, and another party has made RS `rs` since the read before: this read and the later ones see it so (R72,
  R239; log entry 14). -/
  | okAfter (rs : Memory)
  /-- `err = 1`. -/
  | err
  /-- No answer ever comes (R236). -/
  | silent
  deriving DecidableEq, Repr

/-- The WS responder's choice for one `StoreAppend` (R64, R66). `landed` says whether the byte is in WS although the
block was not told so. -/
inductive AppendAnswer where
  /-- One byte written, no error. -/
  | ok
  /-- A failed append; WS is unchanged or has the byte (R64). -/
  | err (landed : Bool)
  /-- No answer ever comes (R236); the request may or may not take effect (R221). -/
  | silent (landed : Bool)
  deriving DecidableEq, Repr

/-- One action of the host, or of the platform on its behalf (R239). -/
inductive HostEvent where
  /-- The host pushes a command word (R90). -/
  | cmd (word : Word)
  /-- The host asserts hardware reset; `cbInit` is the draw of `CB_INIT` made at this reset (R29; log entry 17). -/
  | rst (cbInit : List Byte)
  /-- The platform binds the ports, or another party changes a store between commands (R72, R182, R223, R239). -/
  | bind (stores : Stores) (rsBound wsBound : Bool)
  deriving DecidableEq, Repr

/-- One slot of the entry RAM (R30). -/
structure Entry where
  /-- The significant bytes of the packed pattern. -/
  pat : List Byte
  /-- The chunk width in bits. -/
  width : BitVec 16
  /-- The occurrence count. -/
  count : BitVec 32
  deriving DecidableEq, Repr

/-- Why the machine stops. -/
inductive Fault where
  /-- Raised by `step` when a command waits for a store response that never comes and the host does not assert
  reset: the block makes no further step (R236). Safe: nothing is claimed of such a state. -/
  | storeSilent
  deriving DecidableEq, Repr

/-- Why a step has no meaning. -/
inductive Refusal where
  /-- Raised only by an arm of `exec` whose command has no meaning yet; this model has no such arm. Safe. -/
  | notModelled (mnemonic : String)
  deriving DecidableEq, Repr

/-- The machine. The first part is rule R20's list; the rest is what one step needs of the environment. -/
structure State where
  /-- The implementation parameters (R7); no step changes them. -/
  par : Params
  /-- `RPOS`, the read cursor (R24). -/
  rpos : BitVec 64
  /-- `PBITS`, the pending bits, left-aligned (R25). -/
  pbits : BitVec 8
  /-- `PCNT`, the number of pending bits (R25). -/
  pcnt : BitVec 3
  /-- `CH_POISON` (R26). -/
  chPoison : Bool
  /-- `CB`, `PB_MAX` bytes, `CB[0]` first (R28). -/
  cb : List Byte
  /-- `ENT`, the slots from slot 0 up; a slot past the list's end was never written (R30; log entry 9). -/
  ent : List Entry
  /-- `TSIZE` (R31). -/
  tsize : BitVec 25
  /-- `TCAP` (R31). -/
  tcap : BitVec 25
  /-- `T_FATAL` (R32). -/
  tFatal : Bool
  /-- `R_STAT` (R21). -/
  rStat : BitVec 4
  /-- `R_BITS` (R21). -/
  rBits : BitVec 16
  /-- `R_BYTE` (R21). -/
  rByte : BitVec 8
  /-- `R_VAL` (R21). -/
  rVal : BitVec 32
  /-- `R_IDX` (R21). -/
  rIdx : BitVec 24
  /-- The stores behind the two ports (R60, R76). -/
  stores : Stores
  /-- Is a store bound to the read port (R223)? -/
  rsBound : Bool
  /-- Is a store bound to the write port (R223)? -/
  wsBound : Bool
  /-- The RS responder's coming answers, next first; when none is listed every read is answered (R66). -/
  rdAns : List ReadAnswer
  /-- The WS responder's coming answers, next first; when none is listed every append succeeds (R66). -/
  wrAns : List AppendAnswer
  /-- The host's coming actions, next first (R9, R239). -/
  hostq : List HostEvent
  /-- The agent whose step the block waits for: the host when idle, a responder while a command waits (R222, R236). -/
  turn : Agent
  /-- How many free values were drawn: the model's own counter (log entry 16). -/
  freeCtr : Nat
  deriving DecidableEq, Repr

/-- The state right after hardware reset with parameters `p`, the draw `cbInit` of `CB_INIT` and the environment's
`stores` (R39, R220): nothing queued, no store failing (R66), both ports bound. -/
def State.resetWith (p : Params) (cbInit : List Byte) (stores : Stores) : State :=
  { par := p, rpos := 0, pbits := 0, pcnt := 0, chPoison := false, cb := cbInit, ent := [], tsize := 0, tcap := 1,
    tFatal := false, rStat := 0, rBits := 0, rByte := 0, rVal := 0, rIdx := 0, stores := stores, rsBound := true,
    wsBound := true, rdAns := [], wrAns := [], hostq := [], turn := .host, freeCtr := 0 }

/-- The machine right after reset. DESIGN CHOICE, log entries 1 to 5, 13, 15: the spec fixes no parameters, no
`CB_INIT` and no store contents; this is the spec's test configuration with a zero buffer and two empty stores. -/
def State.reset : State :=
  State.resetWith Params.default (List.replicate 8192 0) (.separate [] [])

end Sys2Proof.Machine
end

