-- ==== Sys2Proof/Machine/Operands.lean ====
section
/-! DEFINITION. The pure helpers of rule R13, the two barrel shifters (R112, R117), operand checks (R203), the bits of
a stream (R12), and the order of keys (R151). -/

namespace Sys2Proof.Machine

/-- Bytes needed for `w` bits (R13). -/
def ceil8 (w : Nat) : Nat := (w + 7) / 8

/-- The byte whose top `n` bits are set, `n` in 0..8 (R13). -/
def himask (n : Nat) : Byte := 0xFF#8 <<< (8 - n)

/-- Used bits of the final byte of a chunk of `w >= 1` bits, in 1..8 (R13). -/
def lastbits (w : Nat) : Nat := w - 8 * (ceil8 w - 1)

/-- The `w`-bit chunk at the front of `B`, unused low bits of its final byte forced to zero (R13). -/
def canon (B : List Byte) (w : Nat) : List Byte :=
  (List.range (ceil8 w)).map fun i =>
    if i + 1 = ceil8 w then B.getD i 0 &&& himask (lastbits w) else B.getD i 0

/-- `PB_MAX` (R7). -/
def pbMax (p : Params) : Nat := ceil8 p.wMax

/-- `TABLE_MAX` (R7). -/
def tableMax (p : Params) : Nat := 2 ^ p.tableLog2

/-- The bit count operand is legal (R91, R197). -/
def countOk (count : BitVec 4) : Bool := count.toNat ≤ 8

/-- The width operand is legal (R8, R196). -/
def widthOk (p : Params) (w : BitVec 16) : Bool := 1 ≤ w.toNat && w.toNat ≤ p.wMax

/-- The buffer index operand is legal (R201). -/
def bidxOk (p : Params) (bidx : BitVec 16) : Bool := bidx.toNat < pbMax p

/-- The requests of a chunk transfer of `w` bits, in order: the `i`-th is `min(rem, 8)` with `rem = w - 8*i`
(R131, R132, R135, R136). -/
def chunkReqs (w : Nat) : List Nat := (List.range (ceil8 w)).map fun i => min (w - 8 * i) 8

/-- The number of bytes `StoreRead` asks for: one iff the cursor is byte-aligned (R71, R112). -/
def fetchSize (off : Nat) : Nat := if off = 0 then 1 else 2

/-- The bits present at and after the cursor within the `k` bytes read (R112). -/
def availBits (k off : Nat) : Nat := 8 * k - off

/-- The read side's barrel shifter: the window of the `k` bytes read, shifted left by `off`, its top byte (R112). -/
def readShift (k : Nat) (d0 d1 : Byte) (off : Nat) : Byte :=
  let hi := if 1 ≤ k then d0 else 0
  let lo := if 2 ≤ k then d1 else 0
  ((hi.setWidth 16 <<< 8 ||| lo.setWidth 16) <<< off).extractLsb' 8 8

/-- The write side's barrel shifter: the pending bits, then the top `count` bits of `data` right after them (R117). -/
def writeShift (pbits : Byte) (pcnt count : Nat) (data : Byte) : BitVec 16 :=
  (pbits.setWidth 16 <<< 8) ||| ((data &&& himask count).setWidth 16 <<< (8 - pcnt))

/-- Bits `byte[7]`, `byte[6]`, ... of a byte, earliest in the stream first (R12, R67). -/
def byteBits (b : Byte) : List Bool := (List.range 8).map fun i => b.getLsbD (7 - i)

/-- The bit stream of a byte sequence (R12). -/
def streamBits (bs : List Byte) : List Bool := bs.flatMap byteBits

/-- `cmpbytes` (R151): bytes as unsigned numbers, a proper prefix before any sequence it is a prefix of. -/
def cmpbytes : List Byte → List Byte → Ordering
  | [], [] => .eq
  | [], _ :: _ => .lt
  | _ :: _, [] => .gt
  | a :: as, b :: bs => if a.toNat < b.toNat then .lt else if b.toNat < a.toNat then .gt else cmpbytes as bs

/-- A key: the packed pattern and the width (R151). -/
abbrev Key := List Byte × BitVec 16

/-- `cmpkey` (R151): the packed bytes first, then the width. -/
def cmpkey (a b : Key) : Ordering :=
  match cmpbytes a.1 b.1 with
  | .lt => .lt
  | .gt => .gt
  | .eq => if a.2.toNat < b.2.toNat then .lt else if b.2.toNat < a.2.toNat then .gt else .eq

/-- The key of an entry (R151). -/
def Entry.key (e : Entry) : Key := (e.pat, e.width)

/-- The contents of a byte sequence read as one unsigned number, first byte most significant, extended with zero bytes
to `n` bytes (`zpad` of R152). -/
def zpad (n : Nat) (bs : List Byte) : Nat :=
  (List.range n).foldl (fun acc i => acc * 256 + (bs.getD i 0).toNat) 0

/-- The fixed-width comparator of R152 for buffers of `n` bytes. -/
def cmpkeyFixed (n : Nat) (a b : Key) : Ordering :=
  if zpad n a.1 < zpad n b.1 then .lt
  else if zpad n b.1 < zpad n a.1 then .gt
  else if a.2.toNat < b.2.toNat then .lt
  else if b.2.toNat < a.2.toNat then .gt
  else .eq

/-- The search contract (R154): the index of the entry with this key, or the number of entries less than it. -/
def search (k : Key) (es : List Entry) : Bool × Nat :=
  match es.findIdx? (fun e => cmpkey k e.key == .eq) with
  | some i => (true, i)
  | none => (false, es.countP (fun e => cmpkey e.key k == .lt))

/-- The loop of the reference search over the half-open interval `[lo, hi)` (R155); `fuel` bounds its probes. -/
def refSearchLoop (k : Key) (es : List Entry) : Nat → Nat → Nat → Bool × Nat
  | 0, lo, _ => (false, lo)
  | fuel + 1, lo, hi =>
    if lo < hi then
      let m := lo + (hi - lo) / 2
      match es[m]? with
      | none => (false, lo)
      | some e =>
        match cmpkey k e.key with
        | .eq => (true, m)
        | .lt => refSearchLoop k es fuel lo m
        | .gt => refSearchLoop k es fuel (m + 1) hi
    else (false, lo)

/-- The reference search (R155): the interval starts as the whole table, and each probe shortens it. -/
def refSearch (k : Key) (es : List Entry) : Bool × Nat :=
  refSearchLoop k es es.length 0 es.length

/-- The table with a new entry at index `p`, the entries from `p` on shifted up by one slot (R159). -/
def insertEntry (p : Nat) (e : Entry) (es : List Entry) : List Entry := es.take p ++ e :: es.drop p

end Sys2Proof.Machine
end

