-- ==== Sys2Proof/Machine/Flags.lean ====
section
/-! DEFINITION. The status codes (R190), the sticky flags (R26, R32) and the status registers SR0 to SR6 (R34, R35). -/

namespace Sys2Proof.Machine

/-- The eleven values of `R_STAT` (R190). -/
inductive Status where
  | ok | truncated | endOfStream | ioFailure | resourceExhausted | invalidWidth | invalidCount | illegalCommand
  | channelPoisoned | tableFatal | indexRange
  deriving DecidableEq, Repr

/-- The code of a status (R190). -/
def Status.code : Status → BitVec 4
  | .ok => 0
  | .truncated => 1
  | .endOfStream => 2
  | .ioFailure => 3
  | .resourceExhausted => 4
  | .invalidWidth => 5
  | .invalidCount => 6
  | .illegalCommand => 7
  | .channelPoisoned => 8
  | .tableFatal => 9
  | .indexRange => 10

/-- The status of a read that asked for `want` bits and delivered `got` without a store error (R112, R132, R194). -/
def readStatus (want got : Nat) : Status :=
  if got = want then .ok else if got = 0 then .endOfStream else .truncated

/-- An IO_FAILURE: `CH_POISON` is set, and `RPOS`, `PBITS` and `PCNT` become unspecified, that is free values
(R26, R120, R205; log entry 7). -/
def State.poison (s : State) : State :=
  { s with
    chPoison := true
    rpos := Config.freeRpos s.freeCtr
    pbits := Config.freePbits s.freeCtr
    pcnt := Config.freePcnt s.freeCtr
    freeCtr := s.freeCtr + 1 }

/-- A RESOURCE_EXHAUSTED: `T_FATAL` is set and the table is left as it was (R158, R160, R205). -/
def State.fatal (s : State) : State := { s with tFatal := true }

/-- The value of status register `sel`, 0..6, laid out as rule R34 says; unnamed bits read as 0. -/
def srExact (s : State) (sel : Nat) : BitVec 32 :=
  match sel with
  | 0 => 0x01#32 <<< 24 ||| (BitVec.ofNat 5 s.par.tableLog2).setWidth 32 <<< 16 |||
      (BitVec.ofNat 16 s.par.wMax).setWidth 32
  | 1 => (BitVec.ofBool s.tFatal).setWidth 32 <<< 1 ||| (BitVec.ofBool s.chPoison).setWidth 32
  | 2 => s.rpos.extractLsb' 0 32
  | 3 => s.rpos.extractLsb' 32 32
  | 4 => s.pcnt.setWidth 32 <<< 8 ||| s.pbits.setWidth 32
  | 5 => s.tsize.setWidth 32
  | 6 => s.tcap.setWidth 32
  | _ => 0

/-- Does a read of this status register show `RPOS`, `PBITS` or `PCNT` (R35)? -/
def srShowsChannel (sel : Nat) : Bool := sel == 2 || sel == 3 || sel == 4

/-- A read of status register `sel` is of free values drawn at this read (R35; log entry 8): the channel is poisoned and the
register shows its cursor or accumulator. -/
def srIsFree (s : State) (sel : Nat) : Bool := s.chPoison && srShowsChannel sel

/-- What a read of status register `sel` returns (R34, R35). -/
def srValue (s : State) (sel : Nat) : BitVec 32 :=
  if srIsFree s sel then
    srExact { s with rpos := Config.freeRpos s.freeCtr, pbits := Config.freePbits s.freeCtr,
                     pcnt := Config.freePcnt s.freeCtr } sel
  else srExact s sel

/-- A read of a status register has no side effect (R34); the model counts the free values it drew (log entries 8, 16). -/
def State.srDrawn (s : State) (sel : Nat) : State :=
  if srIsFree s sel then { s with freeCtr := s.freeCtr + 1 } else s

end Sys2Proof.Machine
end

