-- ==== Sys2Proof/Machine/Ops.lean ====
section
/-! DEFINITION. The named operations over the stores, the response registers, the chunk buffer and the table; how a
command fails (R204, R205), how the block leaves that state again (R206), and hardware reset (R220). -/

namespace Sys2Proof.Machine

/-! ### The stores -/

/-- The canonical form: the listed addresses are 0, 1, 2, ... in order (R61, R63), and every listed cell differs from an
unlisted one, which holds no byte. -/
abbrev Memory.wf (m : Memory) : Prop := m.map Prod.fst = List.range m.length

/-- The byte at an address, if there is one. -/
def Memory.read? (m : Memory) (a : Nat) : Option Byte := m.lookup a

/-- The bytes of the store in address order. -/
def Memory.bytes (m : Memory) : List Byte := m.map Prod.snd

/-- `LEN` (R61). -/
def Memory.len (m : Memory) : Nat := m.length

/-- The store with one byte appended at its end (R63). -/
def Memory.append (m : Memory) (b : Byte) : Memory := m ++ [(m.length, b)]

/-- The store that holds a byte sequence. -/
def Memory.ofBytes (bs : List Byte) : Memory := (List.range bs.length).zip bs

/-- RS, the store on the read port (R60, R76). -/
def Stores.rs : Stores → Memory
  | .separate rs _ => rs
  | .shared m => m

/-- WS, the store on the write port (R60, R76). -/
def Stores.ws : Stores → Memory
  | .separate _ ws => ws
  | .shared m => m

/-- `ALIAS` (R76). -/
def Stores.alias : Stores → Bool
  | .separate _ _ => false
  | .shared _ => true

/-- A byte appended on the write port: with `ALIAS` the read port sees it too (R64, R76). -/
def Stores.append (b : Byte) : Stores → Stores
  | .separate rs ws => .separate rs (Memory.append ws b)
  | .shared m => .shared (Memory.append m b)

/-- The largest `LEN_RS` (R61). -/
def storeMax : Nat := 2 ^ 61 - 1

/-- A byte sequence that RS can be: in canonical form and no longer than R61 says. -/
abbrev Memory.rsOk (m : Memory) : Prop := Memory.wf m ∧ m.len ≤ storeMax

/-- Both stores are in canonical form, and RS is no longer than R61 says. -/
abbrev Stores.wf (st : Stores) : Prop := Memory.rsOk st.rs ∧ Memory.wf st.ws

/-- Another party has made RS `rs` (R72); with `ALIAS` that is the one store (R76). -/
def Stores.withRs (rs : Memory) : Stores → Stores
  | .separate _ ws => .separate rs ws
  | .shared _ => .shared rs

/-- WS can grow by `n` bytes: with `ALIAS` it is RS, which R61 bounds (log entry 15). -/
def Stores.hasRoom (st : Stores) (n : Nat) : Bool := !st.alias || decide (st.ws.len + n ≤ storeMax)

/-- Stream bit `p` of a store (`bit(S, p)` of R12); false past its end. -/
def Memory.bit (m : Memory) (p : Nat) : Bool := ((Memory.read? m (p / 8)).getD 0).getLsbD (7 - p % 8)

/-- What the read port answers (R62). -/
inductive ReadRsp where
  /-- `err = 0`: `k` bytes, of which `d0` and `d1` are the first two; a byte past `k` is meaningless. -/
  | bytes (k : Nat) (d0 d1 : Byte)
  /-- `err = 1`. -/
  | err
  /-- No answer (R236). -/
  | silent
  deriving DecidableEq, Repr

/-- What the read port reaches: RS, or an empty store when none is bound (R60, R223). -/
def State.rs (s : State) : Memory := if s.rsBound then s.stores.rs else []

/-- The RS responder's next answer: the first one listed, `ok` when none is (R66) and on an unbound port, where every
read is END_OF_STREAM (R223; log entry 13). -/
def State.nextRead (s : State) : ReadAnswer := if s.rsBound then s.rdAns.headD .ok else .ok

/-- The stores as they are when the RS responder gives this answer (R72). -/
def Stores.seenAt (a : ReadAnswer) (st : Stores) : Stores :=
  match a with
  | .okAfter rs => st.withRs rs
  | .ok | .err | .silent => st

/-- The RS responder gives its next answer; the stores are as they are at that read (R72). -/
def State.rdNext (s : State) : State := { s with rdAns := s.rdAns.tail, stores := s.stores.seenAt s.nextRead }

/-- `StoreRead(addr, n)`: one request, one answer, chosen by the RS responder (R62, R66), on RS as it is at that read
(R72). -/
def storeRead (addr n : Nat) (s : State) : ReadRsp × State :=
  match s.nextRead with
  | .ok | .okAfter _ => (.bytes (min n (s.rdNext.rs.len - addr)) ((s.rdNext.rs.read? addr).getD 0)
      ((s.rdNext.rs.read? (addr + 1)).getD 0), s.rdNext)
  | .err => (.err, s.rdNext)
  | .silent => (.silent, s.rdNext)

/-- What the write port answers (R64). -/
inductive AppendRsp where
  | ok
  | err
  /-- No answer (R236). -/
  | silent
  deriving DecidableEq, Repr

/-- The answer where the byte would make RS too long (R61; log entry 15): the byte does not land, so the answer is not `ok`;
a responder that does not answer still does not (R236). -/
def AppendAnswer.withoutRoom : AppendAnswer → AppendAnswer
  | .ok | .err _ => .err false
  | .silent _ => .silent false

/-- The WS responder's answer to append number `i` from here on, the `i` before it having been taken: the one listed, `ok`
when none is (R66). On an unbound port every append answers `err` and no byte lands (R223; log entry 13). -/
def State.appendAnswer (s : State) (i : Nat) : AppendAnswer :=
  if s.wsBound then
    if s.stores.hasRoom (i + 1) then s.wrAns.getD i .ok else (s.wrAns.getD i .ok).withoutRoom
  else .err false

/-- The WS responder's next answer. -/
def State.nextAppend (s : State) : AppendAnswer := s.appendAnswer 0

/-- The WS responder has given its next answer. -/
def State.wrNext (s : State) : State := { s with wrAns := s.wrAns.tail }

/-- The byte is in WS if `landed` (R64). -/
def State.land (s : State) (landed : Bool) (b : Byte) : State :=
  { s with stores := if landed then s.stores.append b else s.stores }

/-- `StoreAppend(b)`: one request, one answer, chosen by the WS responder (R64, R66). -/
def storeAppend (b : Byte) (s : State) : AppendRsp × State :=
  match s.nextAppend with
  | .ok => (.ok, s.wrNext.land true b)
  | .err landed => (.err, s.wrNext.land landed b)
  | .silent landed => (.silent, s.wrNext.land landed b)

/-! ### The response registers and how a command ends -/

/-- `respond(stat, bits, byte, val, idx)` (R22). -/
def State.respond (s : State) (st : Status) (bits : Nat) (byte : Byte) (val : BitVec 32) (idx : Nat) : State :=
  { s with
    rStat := st.code
    rBits := BitVec.ofNat 16 bits
    rByte := byte
    rVal := val
    rIdx := BitVec.ofNat 24 idx }

/-- A command that stops at a check: its status, zeros, and no other effect (R205). -/
def State.reject (s : State) (st : Status) : State := s.respond st 0 0 0 0

/-- A command whose store request is never answered does not end: the block waits for that responder (R236). -/
def State.waitFor (s : State) (a : Agent) : State := { s with turn := a }

/-- An illegal command (R97). -/
def State.illegal (s : State) : State := s.reject .illegalCommand

/-! ### The chunk buffer -/

/-- `CB[i]` (R14). -/
def State.cbByte (s : State) (i : Nat) : Byte := s.cb.getD i 0

/-- `CB[i] <- b`. -/
def State.setCb (s : State) (i : Nat) (b : Byte) : State := { s with cb := s.cb.set i b }

/-- `CB[0 ..] <- bs`, the bytes past `bs` unchanged. -/
def State.fillCb (s : State) (bs : List Byte) : State :=
  { s with cb := (bs ++ s.cb.drop bs.length).take s.cb.length }

/-- The key ADDINC takes from the buffer (R153). -/
def State.cbKey (s : State) (w : BitVec 16) : Key := (canon s.cb w.toNat, w)

/-! ### The table -/

/-- Slot `i` of the entry RAM; one that was never written holds free values (R30; log entry 9). -/
def State.slot (s : State) (i : Nat) : Entry :=
  s.ent.getD i
    { pat := Config.freeSlotPat i, width := Config.freeSlotWidth i, count := Config.freeSlotCount i }

/-- The table's entries: slots 0 .. TSIZE-1 (R30). -/
def State.entries (s : State) : List Entry := (List.range s.tsize.toNat).map s.slot

/-- The table now holds `es`: slots `0 ..` are written, `TSIZE` is their number; the slots above keep what they held. -/
def State.setEntries (s : State) (es : List Entry) : State :=
  { s with ent := es ++ s.ent.drop es.length, tsize := BitVec.ofNat 25 es.length }

/-- `TCAP <- 2*TCAP` if an insertion needs it (R159). -/
def State.grow (s : State) : State :=
  if s.tsize = s.tcap then { s with tcap := BitVec.ofNat 25 (2 * s.tcap.toNat) } else s

/-- The insertion cannot be made: the table is full and cannot double (R159, R160). -/
def State.tableFull (s : State) : Bool := s.tsize == s.tcap && decide (tableMax s.par < 2 * s.tcap.toNat)

/-! ### Failing, and leaving the failed state -/

/-- A channel command ends with IO_FAILURE and the number of bits that were moved before the failing access; the failing
`readBits` or `writeBits` has poisoned the channel (`State.poison`), and nothing else is saved (R193, R204, R205). -/
def State.failIo (s : State) (bits : Nat) : State := s.respond .ioFailure bits 0 0 0

/-- TAKING A FAILURE of ADDINC: `T_FATAL` is set and the command ends with RESOURCE_EXHAUSTED (R195, R205). -/
def State.failTable (s : State) : State := s.fatal.reject .resourceExhausted

/-- The way back from IO_FAILURE: the four channel registers are cleared (R182, R206). -/
def State.clearChannel (s : State) : State := { s with rpos := 0, pbits := 0, pcnt := 0, chPoison := false }

/-- The way back from RESOURCE_EXHAUSTED: the table is emptied, its slots are not cleared (R184, R206). -/
def State.clearTable (s : State) : State := { s with tsize := 0, tcap := 1, tFatal := false }

/-- Hardware reset (R220): the registers of R39 at their reset values, `CB` at this reset's draw of `CB_INIT` (R29; log
entry 17), a running command abandoned (R221); the stores, their responders and the host are untouched. -/
def State.hardReset (s : State) (cbInit : List Byte) : State :=
  { s.clearChannel.clearTable with
    cb := cbInit, rStat := 0, rBits := 0, rByte := 0, rVal := 0, rIdx := 0, turn := .host }

/-! ### The host -/

/-- The state once the host's next action has been taken from the queue. -/
def State.taken (s : State) (rest : List HostEvent) : State := { s with hostq := rest }

/-- The platform binds the ports (R182, R223, R239; log entry 14). -/
def State.bound (s : State) (st : Stores) (rsBound wsBound : Bool) : State :=
  { s with stores := st, rsBound := rsBound, wsBound := wsBound }

/-- The host issues this word next, to an idle block (R90, R235). -/
def State.issue (s : State) (c : Word) : State := { s with hostq := .cmd c :: s.hostq, turn := .host }

end Sys2Proof.Machine
end

