-- ==== Sys2Proof/Machine/BitChannel.lean ====
section
/-! DEFINITION. The BitChannel: `readBits`, `writeBits`, and the commands RDBITS, WRBITS, FLUSH (40_bitchannel). -/

namespace Sys2Proof.Machine

/-- What `readBits` returns: the bits delivered, the byte and the status, or nothing because the store is silent. -/
inductive BitRead where
  | got (deliv : Nat) (byte : Byte) (st : Status)
  | silent
  deriving DecidableEq, Repr

/-- `RPOS[2:0]`, the bit in its byte (R24). -/
def State.rposBit (s : State) : Nat := (s.rpos.extractLsb' 0 3).toNat

/-- `RPOS[63:3]`, the byte offset (R24). -/
def State.rposByte (s : State) : Nat := (s.rpos.extractLsb' 3 61).toNat

/-- The cursor would pass 2^64 - 1 (R112, R115 (i)). -/
def State.cursorOverflows (s : State) (count : Nat) : Bool := decide (2 ^ 64 - 1 < s.rpos.toNat + count)

/-- `RPOS <- RPOS + n` (R24). -/
def State.advance (s : State) (n : Nat) : State := { s with rpos := s.rpos + BitVec.ofNat 64 n }

/-- The internal function `readBits(count)` (R112), for `count` in 1..8 on a channel that is not poisoned. -/
def readBits (count : Nat) (s : State) : BitRead × State :=
  if s.cursorOverflows count then (.got 0 0 .ioFailure, s.poison)
  else
    match storeRead s.rposByte (fetchSize s.rposBit) s with
    | (.err, t) => (.got 0 0 .ioFailure, t.poison)
    | (.silent, t) => (.silent, t)
    | (.bytes k d0 d1, t) =>
      let deliv := min count (availBits k s.rposBit)
      (.got deliv (readShift k d0 d1 s.rposBit &&& himask deliv) (readStatus count deliv), t.advance deliv)

/-- RDBITS count (R113). -/
def execRdbits (count : BitVec 4) (s : State) : Host.Outcome State Fault Refusal :=
  if countOk count = false then .next (s.reject .invalidCount)
  else if s.chPoison then .next (s.reject .channelPoisoned)
  else if count = 0 then .next (s.reject .ok)
  else
    match readBits count.toNat s with
    | (.silent, t) => .next (t.waitFor .rsResponder)
    | (.got deliv byte st, t) => .next (t.respond st deliv byte 0 0)

/-- What `writeBits` returns: the 8 or 0 bits it sent on and the status, or nothing because the store is silent. -/
inductive BitWrite where
  | sent (bits : Nat) (st : Status)
  | silent
  deriving DecidableEq, Repr

/-- `PBITS <- b ; PCNT <- n` (R25). -/
def State.setPending (s : State) (b : Byte) (n : Nat) : State := { s with pbits := b, pcnt := BitVec.ofNat 3 n }

/-- The internal function `writeBits(count, data)` (R117), for `count` in 1..8 on a channel that is not poisoned. -/
def writeBits (count : Nat) (data : Byte) (s : State) : BitWrite × State :=
  let acc := writeShift s.pbits s.pcnt.toNat count data
  let total := s.pcnt.toNat + count
  if 8 ≤ total then
    match storeAppend (acc.extractLsb' 8 8) s with
    | (.err, t) => (.sent 0 .ioFailure, t.poison)
    | (.silent, t) => (.silent, t)
    | (.ok, t) => (.sent 8 .ok, t.setPending (acc.extractLsb' 0 8) (total - 8))
  else (.sent 0 .ok, s.setPending (acc.extractLsb' 8 8) total)

/-- FLUSH after its checks (R119). -/
def flushPending (s : State) : State :=
  if s.pcnt = 0 then s.reject .ok
  else
    match storeAppend s.pbits s with
    | (.err, t) => t.poison.failIo 0
    | (.silent, t) => t.waitFor .wsResponder
    | (.ok, t) => (t.setPending 0 0).respond .ok 8 0 0 0

/-- WRBITS count, data (R117); with count 0 it is a FLUSH (R100). -/
def execWrbits (count : BitVec 4) (data : Byte) (s : State) : Host.Outcome State Fault Refusal :=
  if countOk count = false then .next (s.reject .invalidCount)
  else if s.chPoison then .next (s.reject .channelPoisoned)
  else if count = 0 then .next (flushPending s)
  else
    match writeBits count.toNat data s with
    | (.silent, t) => .next (t.waitFor .wsResponder)
    | (.sent bits st, t) => .next (t.respond st bits 0 0 0)

/-- FLUSH, that is WRBITS 0 with any data (R100, R119). -/
def execFlush (_data : Byte) (s : State) : Host.Outcome State Fault Refusal :=
  if s.chPoison then .next (s.reject .channelPoisoned) else .next (flushPending s)

end Sys2Proof.Machine
end

