-- ==== Sys2Proof/Machine/ChunkCodec.lean ====
section
/-! DEFINITION. The ChunkCodec: the loops of `readChunk` and `writeChunk`, and the commands RDCHUNK, WRCHUNK
(41_chunkcodec). -/

namespace Sys2Proof.Machine

/-- How a chunk loop ended, with the bits moved by the calls that completed. -/
inductive ChunkEnd where
  /-- All requests made, or a short delivery. -/
  | ran (total : Nat)
  /-- A `readBits` or `writeBits` ended with IO_FAILURE. -/
  | failed (total : Nat)
  /-- A store never answered. -/
  | silent
  deriving DecidableEq, Repr

/-- The loop of RDCHUNK (R132) over the requests still to be made; `i` and `total` are its counters. -/
def readLoop : List Nat → Nat → Nat → State → ChunkEnd × State
  | [], _, total, s => (.ran total, s)
  | req :: reqs, i, total, s =>
    match readBits req s with
    | (.silent, t) => (.silent, t)
    | (.got deliv byte st, t) =>
      if st = .ioFailure then (.failed total, t)
      else if deliv < req then (.ran (total + deliv), t.setCb i byte)
      else readLoop reqs (i + 1) (total + deliv) (t.setCb i byte)

/-- RDCHUNK w (R132). -/
def execRdchunk (w : BitVec 16) (s : State) : Host.Outcome State Fault Refusal :=
  if widthOk s.par w = false then .next (s.reject .invalidWidth)
  else if s.chPoison then .next (s.reject .channelPoisoned)
  else
    match readLoop (chunkReqs w.toNat) 0 0 (s.fillCb (List.replicate (ceil8 w.toNat) 0)) with
    | (.silent, t) => .next (t.waitFor .rsResponder)
    | (.failed total, t) => .next (t.failIo total)
    | (.ran total, t) => .next (t.respond (readStatus w.toNat total) total 0 0 0)

/-- The loop of WRCHUNK (R136) over the requests still to be made; `i` and `total` are its counters. -/
def writeLoop : List Nat → Nat → Nat → State → ChunkEnd × State
  | [], _, total, s => (.ran total, s)
  | req :: reqs, i, total, s =>
    match writeBits req (s.cbByte i) s with
    | (.silent, t) => (.silent, t)
    | (.sent _ st, t) =>
      if st = .ioFailure then (.failed total, t) else writeLoop reqs (i + 1) (total + req) t

/-- WRCHUNK w (R136). -/
def execWrchunk (w : BitVec 16) (s : State) : Host.Outcome State Fault Refusal :=
  if widthOk s.par w = false then .next (s.reject .invalidWidth)
  else if s.chPoison then .next (s.reject .channelPoisoned)
  else
    match writeLoop (chunkReqs w.toNat) 0 0 s with
    | (.silent, t) => .next (t.waitFor .wsResponder)
    | (.failed total, t) => .next (t.failIo total)
    | (.ran total, t) => .next (t.respond .ok total 0 0 0)

end Sys2Proof.Machine
end

