-- ==== Sys2Proof/Machine/FreqTable.lean ====
section
/-! DEFINITION. The FrequencyTable: the commands ADDINC and TBLRD (42_freqtable). -/

namespace Sys2Proof.Machine

/-- ADDINC of a key that entry `p` holds (R157, R158). -/
def incrementAt (p : Nat) (s : State) : State :=
  let e := s.slot p
  if e.count = 0xFFFFFFFF#32 then s.failTable
  else (s.setEntries (s.entries.set p { e with count := e.count + 1 })).respond .ok 0 0x00 (e.count + 1) p

/-- ADDINC of a key that the table does not hold, with insertion point `p` (R159, R160). -/
def insertAt (p : Nat) (k : Key) (s : State) : State :=
  if s.tableFull then s.failTable
  else (s.grow.setEntries (insertEntry p { pat := k.1, width := k.2, count := 1 } s.entries)).respond .ok 0 0x01 1 p

/-- ADDINC w (R156). -/
def execAddinc (w : BitVec 16) (s : State) : Host.Outcome State Fault Refusal :=
  if widthOk s.par w = false then .next (s.reject .invalidWidth)
  else if s.tFatal then .next (s.reject .tableFatal)
  else
    match search (s.cbKey w) s.entries with
    | (true, p) => .next (incrementAt p s)
    | (false, p) => .next (insertAt p (s.cbKey w) s)

/-- The bytes TBLRD copies to the buffer: the significant bytes of the entry's pattern (R163). -/
def Entry.patBytes (e : Entry) : List Byte := (List.range (ceil8 e.width.toNat)).map fun i => e.pat.getD i 0

/-- TBLRD tidx (R163). -/
def execTblrd (tidx : BitVec 24) (s : State) : Host.Outcome State Fault Refusal :=
  if s.tFatal then .next (s.reject .tableFatal)
  else if s.tsize.toNat ≤ tidx.toNat then .next (s.reject .indexRange)
  else
    let e := s.slot tidx.toNat
    .next ((s.fillCb e.patBytes).respond .ok e.width.toNat 0 e.count tidx.toNat)

end Sys2Proof.Machine
end

