-- ==== Sys2Proof/Machine/Support.lean ====
section
/-! DEFINITION. The support commands NOP, LDCB, STCB, RDSR, CHRESET, TBLRESET (43_buffer_status_reset). -/

namespace Sys2Proof.Machine

/-- NOP (R175). -/
def execNop (s : State) : Host.Outcome State Fault Refusal := .next (s.reject .ok)

/-- LDCB bidx (R176). -/
def execLdcb (bidx : BitVec 16) (s : State) : Host.Outcome State Fault Refusal :=
  if bidxOk s.par bidx = false then .next (s.reject .indexRange)
  else .next (s.respond .ok 0 (s.cbByte bidx.toNat) 0 0)

/-- STCB bidx, data (R178). -/
def execStcb (bidx : BitVec 16) (data : Byte) (s : State) : Host.Outcome State Fault Refusal :=
  if bidxOk s.par bidx = false then .next (s.reject .indexRange)
  else .next ((s.setCb bidx.toNat data).reject .ok)

/-- RDSR sel (R180); selectors 7 to 15 are an illegal command (R97, R181). -/
def execRdsr (sel : BitVec 4) (s : State) : Host.Outcome State Fault Refusal :=
  if 6 < sel.toNat then .next s.illegal
  else .next ((s.srDrawn sel.toNat).respond .ok 0 0 (srValue s sel.toNat) 0)

/-- CHRESET (R182). -/
def execChreset (s : State) : Host.Outcome State Fault Refusal := .next (s.clearChannel.reject .ok)

/-- TBLRESET (R184). -/
def execTblreset (s : State) : Host.Outcome State Fault Refusal := .next (s.clearTable.reject .ok)

end Sys2Proof.Machine
end

