-- ==== Sys2Proof/Machine/Dispatch.lean ====
section
/-! DEFINITION. One command: the meaning of each constructor of `Instr` (rule R94's column "semantics"). -/

namespace Sys2Proof.Machine

def exec (i : Instr) (s : State) : Host.Outcome State Fault Refusal :=
  match i with
  | .nop => Sys2Proof.Machine.execNop s
  | .rdbits count => Sys2Proof.Machine.execRdbits count s
  | .wrbits count data => Sys2Proof.Machine.execWrbits count data s
  | .flush data => Sys2Proof.Machine.execFlush data s
  | .rdchunk w => Sys2Proof.Machine.execRdchunk w s
  | .wrchunk w => Sys2Proof.Machine.execWrchunk w s
  | .addinc w => Sys2Proof.Machine.execAddinc w s
  | .tblrd tidx => Sys2Proof.Machine.execTblrd tidx s
  | .ldcb bidx => Sys2Proof.Machine.execLdcb bidx s
  | .stcb bidx data => Sys2Proof.Machine.execStcb bidx data s
  | .rdsr sel => Sys2Proof.Machine.execRdsr sel s
  | .chreset => Sys2Proof.Machine.execChreset s
  | .tblreset => Sys2Proof.Machine.execTblreset s

end Sys2Proof.Machine
end

