-- ==== Sys2Proof/Machine/Step.lean ====
section
/-! DEFINITION. One step of the machine: the host's next action, if the block can take it. -/

namespace Sys2Proof.Machine

/-- One step. Hardware reset is taken at any time (R221). While a command waits for a store that never answers, nothing
else is accepted (R235, R236). An idle block with no action queued stays idle (R222, R238). A command word runs as the
command it decodes to, or is illegal (R95, R97). -/
def step (s : State) : Host.Outcome State Fault Refusal :=
  match s.hostq with
  | .rst cbInit :: rest => .next ((s.taken rest).hardReset cbInit)
  | [] => if s.turn = .host then .next s else .fault .storeSilent
  | .bind st rsBound wsBound :: rest =>
    if s.turn = .host then .next ((s.taken rest).bound st rsBound wsBound) else .fault .storeSilent
  | .cmd c :: rest =>
    if s.turn = .host then
      match decode c with
      | .ok i => exec i (s.taken rest)
      | .error _ => .next (s.taken rest).illegal
    else .fault .storeSilent

/-- The opcode table's word put where the next step takes it: the host's next action. -/
def State.withFetchWord (s : State) (nbits w : Nat) : State := s.issue (BitVec.ofNat 32 (w % 2 ^ nbits))

end Sys2Proof.Machine
end

