-- ==== Sys2Proof/Safety.lean ====
section
/-! DEFINITION. What claims about the machine speak of: the invariant of the block (R25, R31, R33, R38), what counts as a
clean end (R238), and the frames of the commands. -/

namespace Sys2Proof.Machine

/-! ### The invariant -/

/-- The accumulator holds its `PCNT` bits left-aligned with zeros below them, unless the channel is poisoned
(R25, R38 (a)). -/
abbrev State.accumulatorOk (s : State) : Prop :=
  s.chPoison = false → s.pbits &&& ~~~ himask s.pcnt.toNat = 0#8

/-- An entry as rules R27 and R30 say: a legal width, a canonical pattern, a count of at least 1. -/
abbrev Entry.ok (p : Params) (e : Entry) : Prop :=
  1 ≤ e.width.toNat ∧ e.width.toNat ≤ p.wMax ∧ e.pat = canon e.pat e.width.toNat ∧ 1 ≤ e.count.toNat

/-- The entries are strictly ascending under `cmpkey`, so none occurs twice (R33, R162 (c)). -/
abbrev sortedEntries (es : List Entry) : Prop := es.Pairwise fun a b => cmpkey a.key b.key = .lt

/-- `0 <= TSIZE <= TCAP <= TABLE_MAX`, `TCAP` is a power of two (R31) and, once something is stored, the least one that
is enough (R159). -/
abbrev State.capacityOk (s : State) : Prop :=
  s.tsize.toNat ≤ s.tcap.toNat ∧ s.tcap.toNat ∈ (List.range (s.par.tableLog2 + 1)).map (2 ^ ·) ∧
    (s.tcap.toNat = 1 ∨ s.tcap.toNat < 2 * s.tsize.toNat)

/-- The table invariant (R31, R33). -/
abbrev State.tableOk (s : State) : Prop :=
  s.capacityOk ∧ sortedEntries s.entries ∧ ∀ e ∈ s.entries, e.ok s.par

/-- What the environment may hand the block: a full buffer draw at a reset, stores in canonical form. -/
def HostEvent.wf (p : Params) : HostEvent → Bool
  | .cmd _ => true
  | .rst cbInit => cbInit.length = pbMax p
  | .bind st _ _ => decide st.wf

/-- What another party may make of RS: a store that R61 allows. -/
def ReadAnswer.wf : ReadAnswer → Bool
  | .ok | .err | .silent => true
  | .okAfter rs => decide (Memory.rsOk rs)

/-- The invariant of the machine. -/
abbrev State.Inv (s : State) : Prop :=
  s.par.wf ∧ s.cb.length = pbMax s.par ∧ s.accumulatorOk ∧ s.tableOk ∧ s.rStat.toNat ≤ 10 ∧ s.stores.wf ∧
    (∀ e ∈ s.hostq, e.wf s.par = true) ∧ (∀ a ∈ s.rdAns, a.wf = true) ∧ s.turn ≠ .core

/-! ### Views of a state -/

/-- The bits accepted on the write side that are in WS or pending (R38 (c)): the bits of WS, then the top `PCNT` bits
of `PBITS`. -/
def State.writtenBits (s : State) : List Bool :=
  streamBits (Memory.bytes s.stores.ws) ++ (byteBits s.pbits).take s.pcnt.toNat

/-- The first `w` bits of the chunk buffer, earliest first (R27). -/
def State.cbBits (s : State) (w : Nat) : List Bool := (streamBits s.cb).take w

/-- The sum of the entry counts (R162 (a)). -/
def State.countSum (s : State) : Nat := (s.entries.map fun e => e.count.toNat).sum

/-- The response registers hold these values (R22). -/
structure Responds (t : State) (stat : BitVec 4) (bits : Nat) (byte : Byte) (val idx : Nat) : Prop where
  stat : t.rStat = stat
  bits : t.rBits.toNat = bits
  byte : t.rByte = byte
  val : t.rVal.toNat = val
  idx : t.rIdx.toNat = idx

/-- The five response registers are as they were (R21). -/
structure SameResponse (s t : State) : Prop where
  stat : t.rStat = s.rStat
  bits : t.rBits = s.rBits
  byte : t.rByte = s.rByte
  val : t.rVal = s.rVal
  idx : t.rIdx = s.rIdx

/-- Another party has changed RS before this answer (R72). -/
def ReadAnswer.changesRs : ReadAnswer → Bool
  | .ok | .err | .silent => false
  | .okAfter _ => true

/-- No other party changes RS at the next `n` reads (the assumption of R72). -/
abbrev State.rsStill (s : State) (n : Nat) : Prop := ∀ a ∈ s.rdAns.take n, a.changesRs = false

/-- The write port can take `n` bytes: a store is bound to it (R223), with room for them if it is RS too (R61). -/
abbrev State.canTake (s : State) (n : Nat) : Prop := 0 < n → s.wsBound = true ∧ s.stores.hasRoom n = true

/-- A run that ends here has not gone wrong in the sense of rule R238. -/
def State.cleanEnd (s : State) : Bool :=
  !s.chPoison && !s.tFatal && s.rStat != Status.code .ioFailure && s.rStat != Status.code .resourceExhausted

end Sys2Proof.Machine

namespace Sys2Proof

/-- The commands that use the channel (R110). -/
def Instr.isChannel : Instr → Bool
  | .rdbits _ | .wrbits _ _ | .flush _ | .rdchunk _ | .wrchunk _ => true
  | .nop | .addinc _ | .tblrd _ | .ldcb _ | .stcb _ _ | .rdsr _ | .chreset | .tblreset => false

/-- The status codes a command can end with (the table of R202). -/
def Instr.codes : Instr → List Nat
  | .nop | .chreset | .tblreset => [0]
  | .rdbits _ => [0, 1, 2, 3, 6, 8]
  | .wrbits _ _ => [0, 3, 6, 8]
  | .flush _ => [0, 3, 8]
  | .rdchunk _ => [0, 1, 2, 3, 5, 8]
  | .wrchunk _ => [0, 3, 5, 8]
  | .addinc _ => [0, 4, 5, 9]
  | .tblrd _ => [0, 9, 10]
  | .ldcb _ | .stcb _ _ => [0, 10]
  | .rdsr _ => [0, 7]

end Sys2Proof

namespace Sys2Proof.Machine

/-! ### Frames -/

/-- The stores once the read port has given `k` answers: RS is what the last of them to carry a change by another party
made it, and as it was where none does or no store is bound (R61, R72, R223). -/
def State.storesAfter (s : State) (k : Nat) : Stores :=
  if s.rsBound then (s.rdAns.take k).foldl (fun st a => st.seenAt a) s.stores else s.stores

/-- What the read side of the channel leaves alone in at most `n` reads: the parameters, the table, the write port and the
host's queue; the accumulator, unless a failure made it unspecified (R24, R26); and both stores, but for what another party
makes of RS before one of the reads made (R61, R72). -/
structure ReadFrame (n : Nat) (s t : State) : Prop where
  par : t.par = s.par
  ent : t.ent = s.ent
  tsize : t.tsize = s.tsize
  tcap : t.tcap = s.tcap
  tFatal : t.tFatal = s.tFatal
  ws : s.stores.alias = false → t.stores.ws = s.stores.ws
  binding : t.stores.alias = s.stores.alias
  rsBound : t.rsBound = s.rsBound
  wsBound : t.wsBound = s.wsBound
  answers : ∃ k, k ≤ n ∧ t.rdAns = s.rdAns.drop k ∧ t.stores = s.storesAfter k
  wrAns : t.wrAns = s.wrAns
  hostq : t.hostq = s.hostq
  accumulator : t.chPoison = s.chPoison → t.pbits = s.pbits ∧ t.pcnt = s.pcnt

/-- What the write side of the channel leaves alone: the parameters, the chunk buffer, the table, the read port and the
host's queue, the store on the read port unless it is the same store (R76); the cursor, unless a failure made it
unspecified; and every byte of WS but the at most `n` bytes appended at its end (R63). -/
structure WriteFrame (n : Nat) (s t : State) : Prop where
  par : t.par = s.par
  cb : t.cb = s.cb
  ent : t.ent = s.ent
  tsize : t.tsize = s.tsize
  tcap : t.tcap = s.tcap
  tFatal : t.tFatal = s.tFatal
  rs : s.stores.alias = false → t.stores.rs = s.stores.rs
  binding : t.stores.alias = s.stores.alias
  rsBound : t.rsBound = s.rsBound
  wsBound : t.wsBound = s.wsBound
  rdAns : t.rdAns = s.rdAns
  hostq : t.hostq = s.hostq
  cursor : t.chPoison = s.chPoison → t.rpos = s.rpos
  grows : s.stores.ws.len ≤ t.stores.ws.len ∧ t.stores.ws.len ≤ s.stores.ws.len + n
  ws : ∀ a, (a < s.stores.ws.len ∨ s.stores.ws.len + n ≤ a) →
    Memory.read? t.stores.ws a = Memory.read? s.stores.ws a

end Sys2Proof.Machine
end

