-- ==== Sys2Proof/Certificates/Slice0/Obligations.lean ====
section
/-! DEFINITION. What is claimed of SHC-CORE. Each statement's docstring names the rules it rests on; OBLIGATIONS.json says
which of them formalise a rule whole. A statement about `exec` or `step` holds for every parameter, store, answer list and
host, since these stand in the state. -/

open Sys2Proof Sys2Proof.Machine

/-! ### Encoding -/

/-- Every command word reads back as its command, with every operand at every value of its field (R91 to R94). -/
def Obligations.DecodeOfEncodeIsTheCommand : Prop :=
  ∀ i : Instr, i.wellFormed = true → decode (encode i) = .ok i

/-- A word that decodes is the word of its command, so that no bit of it is dropped and no two words mean the same
command (R96); the 256 words of FLUSH are its 256 data fields (R100). -/
def Obligations.EncodeOfDecodeIsTheWord : Prop :=
  ∀ (c : Word) (i : Instr), decode c = .ok i → encode i = c ∧ i.wellFormed = true

/-- R95: decoding is total; a word matches exactly one row of R94, and is that row's command, or matches none and is
no command. -/
def Obligations.EveryWordMatchesOneRowOrNone : Prop :=
  ∀ c : Word,
    (∃ i r, decode c = .ok i ∧ r ∈ opcodeMap ∧ r.matches c = true ∧ i.row.mat = r.mat ∧
      ∀ r' ∈ opcodeMap, r'.matches c = true → r' = r) ∨
    ((∃ why, decode c = .error why) ∧ ∀ r ∈ opcodeMap, r.matches c = false)

/-- Words of 95_test_vectors decode as that file says. -/
def Obligations.SpecWordsDecode : Prop :=
  decode 0x00000000 = .ok .nop ∧ decode 0x14000000 = .ok (.rdbits 4) ∧ decode 0x25B00000 = .ok (.wrbits 5 0xB0) ∧
  decode 0x20000000 = .ok (.flush 0) ∧ decode 0x3000000C = .ok (.rdchunk 12) ∧ decode 0x4000000C = .ok (.wrchunk 12) ∧
  decode 0x50000004 = .ok (.addinc 4) ∧ decode 0x60000002 = .ok (.tblrd 2) ∧ decode 0x70001FFF = .ok (.ldcb 8191) ∧
  decode 0x80FA0001 = .ok (.stcb 1 0xFA) ∧ decode 0x90000006 = .ok (.rdsr 6) ∧ decode 0xA0000000 = .ok .chreset ∧
  decode 0xB0000000 = .ok .tblreset ∧ decode 0x61000000 = .error .reservedBit ∧
  decode 0xC0000000 = .error .reservedOpcode

/-- R97: a reserved opcode, a word that matches no row, or RDSR with a selector of 7 to 15 ends with ILLEGAL_COMMAND,
zeros, and no other effect. -/
def Obligations.IllegalCommandOnlyAnswers : Prop :=
  ∀ (s : State) (c : Word) (q : List HostEvent), s.turn = .host → s.hostq = .cmd c :: q →
    (0xC ≤ (opField c).toNat ∨ (∀ r ∈ opcodeMap, r.matches c = false) ∨
      ∃ sel : BitVec 4, 7 ≤ sel.toNat ∧ c = 0x90000000 ||| sel.setWidth 32) →
    step s = .next { s with hostq := q, rStat := 7, rBits := 0, rByte := 0, rVal := 0, rIdx := 0 }

/-! ### Steps and reset -/

/-- A step of an idle block is `exec` of the command that the host's word decodes to, the word taken from the queue
(R70, R90, R235). -/
def Obligations.StepRunsTheDecodedCommand : Prop :=
  ∀ (s : State) (c : Word) (q : List HostEvent) (i : Instr), s.turn = .host → s.hostq = .cmd c :: q →
    decode c = .ok i → step s = exec i { s with hostq := q }

/-- An idle block with nothing issued waits (R222); that waiting is a step that changes nothing is the model's choice
(log entry 5). -/
def Obligations.IdleBlockWaits : Prop :=
  ∀ s : State, s.turn = .host → s.hostq = [] → step s = .next s

/-- A block whose store never answers accepts nothing but hardware reset, which makes it idle again (R236). That it stops
with a fault is the model's choice (log entry 6). -/
def Obligations.SilentStoreLeavesOnlyReset : Prop :=
  ∀ s : State, s.turn ≠ .host →
    ((∀ cbInit q, s.hostq ≠ .rst cbInit :: q) → step s = .fault .storeSilent) ∧
    (∀ cbInit q, s.hostq = .rst cbInit :: q → ∃ t, step s = .next t ∧ t.turn = .host)

/-- R220: hardware reset puts every register at its reset value, which is CHRESET, then TBLRESET, then the responses
cleared and the buffer at `CB_INIT`; it does not touch the stores. -/
def Obligations.HardwareResetSetsEveryRegister : Prop :=
  ∀ (s : State) (cbInit : List Byte) (q : List HostEvent), s.hostq = .rst cbInit :: q →
    ∃ t u v, step s = .next t ∧ t.rpos = 0 ∧ t.pbits = 0 ∧ t.pcnt = 0 ∧ t.chPoison = false ∧ t.tsize = 0 ∧
      t.tcap = 1 ∧ t.tFatal = false ∧ t.rStat = 0 ∧ t.rBits = 0 ∧ t.rByte = 0 ∧ t.rVal = 0 ∧ t.rIdx = 0 ∧
      t.cb = cbInit ∧ t.stores = s.stores ∧ t.entries = [] ∧
      exec .chreset s = .next u ∧ exec .tblreset u = .next v ∧
      t = { v with cb := cbInit, rStat := 0, rBits := 0, rByte := 0, rVal := 0, rIdx := 0, hostq := q, turn := .host }

/-- The state after reset meets the invariant, whatever the parameters, the draw of `CB_INIT` and the stores
(R7, R29, R39); so does the model's own `State.reset` (log entries 1 to 5). -/
def Obligations.ResetMeetsTheInvariant : Prop :=
  (∀ (p : Params) (cbInit : List Byte) (st : Stores), p.wf → cbInit.length = pbMax p → st.wf →
    (State.resetWith p cbInit st).Inv) ∧ State.reset.Inv

/-- Every step keeps the invariant: the accumulator's form (R25), the capacity (R31, R159), the sorted table of canonical
entries (R33), the buffer's size (R28), the codes (R190), the stores' form (R61, R63). -/
def Obligations.EveryStepKeepsTheInvariant : Prop :=
  ∀ s t : State, s.Inv → step s = .next t → t.Inv

/-! ### The stores -/

/-- `StoreRead` answers the bytes that exist, or an error; a read has no side effect on RS (R62). Where another party has
changed RS since the read before, it is the bytes of RS as it is at that read (R72): that such a change comes with an answer
`okAfter rs`, and that with two stores it leaves WS, is the model's choice (log entry 14). -/
def Obligations.StoreReadAnswersWhatExists : Prop :=
  ∀ (a n : Nat) (s : State), Memory.wf s.rdNext.rs → (n = 1 ∨ n = 2) →
    (s.nextRead = .err → (storeRead a n s).1 = .err) ∧
    (s.nextRead ≠ .err → s.nextRead ≠ .silent → ∃ k d0 d1, (storeRead a n s).1 = .bytes k d0 d1 ∧
      k = min n (s.rdNext.rs.len - a) ∧
      (1 ≤ k → s.rdNext.rs.bytes[a]? = some d0) ∧ (2 ≤ k → s.rdNext.rs.bytes[a + 1]? = some d1)) ∧
    (storeRead a n s).2.rs = s.rdNext.rs ∧
    ((∀ rs, s.nextRead ≠ .okAfter rs) → s.rdNext.rs = s.rs ∧ (storeRead a n s).2.stores = s.stores) ∧
    (∀ rs, s.nextRead = .okAfter rs → s.rdNext.rs = rs ∧
      (s.stores.alias = false → (storeRead a n s).2.stores.ws = s.stores.ws))

/-- R64: `StoreAppend` appends one byte and answers ok, or answers err with WS unchanged or with the byte appended; on a
port that can take a byte both outcomes of an err occur. -/
def Obligations.StoreAppendAppendsOneByte : Prop :=
  ∀ (b : Byte) (s : State),
    (∀ t, storeAppend b s = (.ok, t) → t.stores.ws.bytes = s.stores.ws.bytes ++ [b]) ∧
    (∀ t, storeAppend b s = (.err, t) →
      t.stores.ws.bytes = s.stores.ws.bytes ∨ t.stores.ws.bytes = s.stores.ws.bytes ++ [b]) ∧
    (s.canTake 1 → ∀ landed : Bool, ∃ t, storeAppend b { s with wrAns := [.err landed] } = (.err, t) ∧
      t.stores.ws.bytes = if landed then s.stores.ws.bytes ++ [b] else s.stores.ws.bytes)

/-- R76: with both ports on one store a read sees the byte appended before it; with two stores RS is constant. -/
def Obligations.AliasedReadsSeeAppends : Prop :=
  ∀ (st : Stores) (b : Byte), st.wf →
    (st.alias = true → (st.append b).rs = (st.append b).ws ∧
      Memory.read? (st.append b).rs st.rs.len = some b ∧ (st.append b).rs.len = st.rs.len + 1) ∧
    (st.alias = false → (st.append b).rs = st.rs)

/-! ### The BitChannel -/

/-- R114: what `readBits` delivers, on the bit stream of RS as it is at its one read (R72; `rdNext_rs`: where no other party
changes it, of RS as it was). -/
def Obligations.ReadBitsDeliversTheStream : Prop :=
  ∀ (s t : State) (count n : Nat) (b : Byte) (st : Status), 1 ≤ count → count ≤ 8 → Memory.wf s.rdNext.rs →
    readBits count s = (.got n b st, t) → st ≠ .ioFailure →
    n = min count (8 * s.rdNext.rs.len - s.rpos.toNat) ∧
    (∀ j, j < n → b.getLsbD (7 - j) = Memory.bit s.rdNext.rs (s.rpos.toNat + j)) ∧
    (∀ j, n ≤ j → j < 8 → b.getLsbD (7 - j) = false) ∧
    t.rpos.toNat = s.rpos.toNat + n

/-- RDBITS of 1 to 8 bits on a channel that is not poisoned, with a store that answers: the bits delivered, the status by
their number, the cursor, and what stays (R113, R114). -/
def Obligations.RdbitsDeliversBits : Prop :=
  ∀ (s : State) (count : BitVec 4), 1 ≤ count.toNat → count.toNat ≤ 8 → s.chPoison = false →
    s.rpos.toNat + count.toNat ≤ 2 ^ 64 - 1 → s.nextRead = .ok → Memory.wf s.rs →
    ∃ t n, exec (.rdbits count) s = .next t ∧ n = min count.toNat (8 * s.rs.len - s.rpos.toNat) ∧
      t.rBits.toNat = n ∧ t.rStat = (if n = count.toNat then 0 else if n = 0 then 2 else 1) ∧
      (∀ j, j < 8 → t.rByte.getLsbD (7 - j) = (decide (j < n) && Memory.bit s.rs (s.rpos.toNat + j))) ∧
      t.rVal = 0 ∧ t.rIdx = 0 ∧ t.rpos.toNat = s.rpos.toNat + n ∧ t.chPoison = false ∧
      ReadFrame 1 s t ∧ t.stores = s.stores ∧ t.cb = s.cb ∧ t.turn = s.turn

/-- RDBITS at its checks and failures: a count above 8, a poisoned channel, a count of 0, and a read that fails
(R110, R113, R193, R197, R199). -/
def Obligations.RdbitsChecksAndFails : Prop :=
  ∀ (s : State) (count : BitVec 4),
    (8 < count.toNat → exec (.rdbits count) s =
      .next { s with rStat := 6, rBits := 0, rByte := 0, rVal := 0, rIdx := 0 }) ∧
    (count.toNat ≤ 8 → s.chPoison = true → exec (.rdbits count) s =
      .next { s with rStat := 8, rBits := 0, rByte := 0, rVal := 0, rIdx := 0 }) ∧
    (count = 0 → s.chPoison = false → exec (.rdbits count) s =
      .next { s with rStat := 0, rBits := 0, rByte := 0, rVal := 0, rIdx := 0 }) ∧
    (1 ≤ count.toNat → count.toNat ≤ 8 → s.chPoison = false →
      (2 ^ 64 - 1 < s.rpos.toNat + count.toNat ∨ s.nextRead = .err) →
      ∃ t, exec (.rdbits count) s = .next t ∧ Responds t 3 0 0 0 0 ∧ t.chPoison = true ∧ ReadFrame 1 s t ∧ t.stores = s.stores ∧ t.cb = s.cb ∧
        (2 ^ 64 - 1 < s.rpos.toNat + count.toNat → t.rdAns = s.rdAns))

/-- WRBITS of 1 to 8 bits on a channel that is not poisoned, with a store that takes the byte if one is sent: the bits are
accepted behind those accepted before, and R_BITS says whether a byte was sent (R25, R38, R117). -/
def Obligations.WrbitsAcceptsBits : Prop :=
  ∀ (s : State) (count : BitVec 4) (data : Byte), 1 ≤ count.toNat → count.toNat ≤ 8 → s.chPoison = false →
    s.accumulatorOk → (s.pcnt.toNat + count.toNat < 8 ∨ s.nextAppend = .ok) →
    ∃ t, exec (.wrbits count data) s = .next t ∧
      t.writtenBits = s.writtenBits ++ (byteBits data).take count.toNat ∧
      t.pcnt.toNat = (s.pcnt.toNat + count.toNat) % 8 ∧ t.accumulatorOk ∧
      t.stores.ws.len = s.stores.ws.len + (s.pcnt.toNat + count.toNat) / 8 ∧
      Responds t 0 (if 8 ≤ s.pcnt.toNat + count.toNat then 8 else 0) 0 0 0 ∧ t.chPoison = false ∧
      WriteFrame ((s.pcnt.toNat + count.toNat) / 8) s t ∧ t.turn = s.turn

/-- WRBITS at its checks and failures (R110, R118 (f) and (g), R193, R197, R199); after a failed append WS holds the bits
accepted before it up to the last whole byte, and the failed byte, which is the next eight, or not (R64, R205). -/
def Obligations.WrbitsChecksAndFails : Prop :=
  ∀ (s : State) (count : BitVec 4) (data : Byte),
    (8 < count.toNat → exec (.wrbits count data) s =
      .next { s with rStat := 6, rBits := 0, rByte := 0, rVal := 0, rIdx := 0 }) ∧
    (count.toNat ≤ 8 → s.chPoison = true → exec (.wrbits count data) s =
      .next { s with rStat := 8, rBits := 0, rByte := 0, rVal := 0, rIdx := 0 }) ∧
    (1 ≤ count.toNat → count.toNat ≤ 8 → s.chPoison = false → 8 ≤ s.pcnt.toNat + count.toNat →
      ∀ landed, s.nextAppend = .err landed →
      ∃ t, exec (.wrbits count data) s = .next t ∧ Responds t 3 0 0 0 0 ∧ t.chPoison = true ∧ WriteFrame 1 s t ∧
        t.stores.ws.len = s.stores.ws.len + (if landed then 1 else 0) ∧
        (s.accumulatorOk → streamBits t.stores.ws.bytes =
          (s.writtenBits ++ (byteBits data).take count.toNat).take (8 * t.stores.ws.len)))

/-- R119: FLUSH with nothing pending does nothing; with pending bits it appends them, already padded with zeros, and clears
the accumulator; a failed append poisons the channel. On a poisoned channel it is refused (R199). -/
def Obligations.FlushWritesThePendingByte : Prop :=
  ∀ (s : State) (data : Byte),
    (s.chPoison = true → exec (.flush data) s =
      .next { s with rStat := 8, rBits := 0, rByte := 0, rVal := 0, rIdx := 0 }) ∧
    (s.chPoison = false → s.pcnt = 0 → exec (.flush data) s =
      .next { s with rStat := 0, rBits := 0, rByte := 0, rVal := 0, rIdx := 0 }) ∧
    (s.chPoison = false → s.pcnt ≠ 0 → s.nextAppend = .ok → ∃ t, exec (.flush data) s =
      .next { s with wrAns := s.wrAns.tail, stores := t, pbits := 0, pcnt := 0, rStat := 0, rBits := 8, rByte := 0,
                     rVal := 0, rIdx := 0 } ∧
      t.ws.bytes = s.stores.ws.bytes ++ [s.pbits] ∧ (s.stores.alias = false → t.rs = s.stores.rs) ∧
      (∀ a, a ≠ s.stores.ws.len → Memory.read? t.ws a = Memory.read? s.stores.ws a)) ∧
    (s.chPoison = false → s.pcnt ≠ 0 → ∀ landed, s.nextAppend = .err landed → ∃ t, exec (.flush data) s = .next t ∧
      Responds t 3 0 0 0 0 ∧ t.chPoison = true ∧ WriteFrame 1 s t ∧
      t.stores.ws.bytes = if landed then s.stores.ws.bytes ++ [s.pbits] else s.stores.ws.bytes)

/-- After a FLUSH that succeeds every bit accepted before is in WS, followed by zeros up to the byte, and nothing is
pending (R74, R119, R231). -/
def Obligations.FlushPadsTheStreamToAByte : Prop :=
  ∀ (s : State) (data : Byte), s.chPoison = false → s.accumulatorOk → (s.pcnt = 0 ∨ s.nextAppend = .ok) →
    ∃ t, exec (.flush data) s = .next t ∧ t.pcnt = 0 ∧ t.pbits = (if s.pcnt = 0 then s.pbits else 0) ∧
      streamBits t.stores.ws.bytes = s.writtenBits ++ List.replicate ((8 - s.pcnt.toNat) % 8) false

/-- R100: a WRBITS word with count 0 is a flush whatever its data field holds; the assembler's word has data 0; FLUSH's
row is a subset of WRBITS's. -/
def Obligations.WrbitsOfZeroBitsIsFlush : Prop :=
  (∀ (s : State) (d d' : Byte), decode (0x20000000 ||| d.setWidth 32 <<< 16) = .ok (.flush d) ∧
    exec (.wrbits 0 d) s = exec (.flush d') s) ∧
  encode (.flush 0) = 0x20000000 ∧
  ∀ (c : Word) (n : BitVec 4) (d : Byte), (Instr.flush d).row.matches c = true →
    (Instr.wrbits n d).row.matches c = true

/-- What RDBITS and RDCHUNK leave alone, however they end (R24, R28, R61, R205); of the answers listed only those to the
reads made can carry another party's change of RS (R72; log entry 14). -/
def Obligations.ReadCommandsFrame : Prop :=
  ∀ (s t : State),
    (∀ count, exec (.rdbits count) s = .next t → ReadFrame 1 s t ∧ t.cb = s.cb) ∧
    (∀ w, exec (.rdchunk w) s = .next t → ReadFrame (ceil8 w.toNat) s t ∧ t.cb.length = s.cb.length ∧
      ∀ j, ceil8 w.toNat ≤ j → t.cb[j]? = s.cb[j]?)

/-- What WRBITS, FLUSH and WRCHUNK leave alone, however they end: of WS, every byte but the ones they append at its end
(R24, R28, R63, R205). -/
def Obligations.WriteCommandsFrame : Prop :=
  ∀ (s t : State),
    (∀ count data, exec (.wrbits count data) s = .next t →
      WriteFrame (if count = 0 then 1 else (s.pcnt.toNat + count.toNat) / 8) s t) ∧
    (∀ data, exec (.flush data) s = .next t → WriteFrame 1 s t) ∧
    (∀ w, exec (.wrchunk w) s = .next t → WriteFrame ((s.pcnt.toNat + w.toNat) / 8) s t)

/-! ### The ChunkCodec -/

/-- RDCHUNK of a legal width on a channel that is not poisoned, with a store that answers every read and no request that is
reached overflowing the cursor: the number of bits, the status by that number, the cursor, and what stays (R132, R134).
Of the requests the one that ends at bit `8 * (n / 8) + 8`, or the last, is the last that is reached. -/
def Obligations.RdchunkReadsAChunk : Prop :=
  ∀ (s : State) (w : BitVec 16) (n : Nat), 1 ≤ w.toNat → w.toNat ≤ s.par.wMax → s.chPoison = false → Memory.wf s.rs →
    n = min w.toNat (8 * s.rs.len - s.rpos.toNat) →
    s.rpos.toNat + min w.toNat (8 * (n / 8) + 8) ≤ 2 ^ 64 - 1 → (∀ a ∈ s.rdAns.take (ceil8 w.toNat), a = .ok) →
    ∃ t, exec (.rdchunk w) s = .next t ∧
      Responds t (if n = w.toNat then 0 else if n = 0 then 2 else 1) n 0 0 0 ∧ t.rpos.toNat = s.rpos.toNat + n ∧
      t.chPoison = false ∧ ReadFrame (ceil8 w.toNat) s t ∧ t.stores = s.stores ∧
      (∀ j, ceil8 w.toNat ≤ j → t.cb[j]? = s.cb[j]?) ∧ t.turn = s.turn

/-- R133: what RDCHUNK leaves in the buffer when it ends without IO_FAILURE, on the bit stream of an RS that no other party
changes meanwhile. -/
def Obligations.RdchunkLeavesTheStreamInTheBuffer : Prop :=
  ∀ (s t : State) (w : BitVec 16), 1 ≤ w.toNat → w.toNat ≤ s.par.wMax → s.par.wf → s.cb.length = pbMax s.par →
    s.chPoison = false → Memory.wf s.rs → s.rsStill (ceil8 w.toNat) → s.turn = .host →
    exec (.rdchunk w) s = .next t → t.turn = .host → t.rStat ≠ 3 →
    ∃ n, n = min w.toNat (8 * s.rs.len - s.rpos.toNat) ∧ t.rBits.toNat = n ∧
      (∀ j, j < n → (t.cbByte (j / 8)).getLsbD (7 - j % 8) = Memory.bit s.rs (s.rpos.toNat + j)) ∧
      (∀ j, n ≤ j → j < 8 * ceil8 w.toNat → (t.cbByte (j / 8)).getLsbD (7 - j % 8) = false) ∧
      t.rpos.toNat = s.rpos.toNat + n

/-- RDCHUNK whose request number `i` fails after `i` full ones, because the read fails or because the cursor would pass
2^64 - 1: R_BITS is the bits delivered before, the buffer holds them followed by zeros, the channel is poisoned; at an
overflow the failing request makes no store access (R112, R134 (g), R193, R205). -/
def Obligations.RdchunkFailureKeepsDeliveredBytes : Prop :=
  ∀ (s : State) (w : BitVec 16) (i : Nat), w.toNat ≤ s.par.wMax → s.cb.length = pbMax s.par → s.chPoison = false →
    Memory.wf s.rs → i < ceil8 w.toNat → s.rpos.toNat + 8 * i ≤ 2 ^ 64 - 1 →
    (i = 0 ∨ s.rpos.toNat + 8 * i ≤ 8 * s.rs.len) → (∀ a ∈ s.rdAns.take i, a = .ok) →
    ((2 ^ 64 - 1 < s.rpos.toNat + min w.toNat (8 * i + 8)) ∨
      (s.rpos.toNat + min w.toNat (8 * i + 8) ≤ 2 ^ 64 - 1 ∧ s.rsBound = true ∧ s.rdAns[i]? = some .err)) →
    ∃ t, exec (.rdchunk w) s = .next t ∧ Responds t 3 (8 * i) 0 0 0 ∧ t.chPoison = true ∧ ReadFrame (i + 1) s t ∧
      t.stores = s.stores ∧
      (∀ j, j < 8 * i → (t.cbByte (j / 8)).getLsbD (7 - j % 8) = Memory.bit s.rs (s.rpos.toNat + j)) ∧
      (∀ j, i ≤ j → j < ceil8 w.toNat → t.cbByte j = 0) ∧ (∀ j, ceil8 w.toNat ≤ j → t.cb[j]? = s.cb[j]?) ∧
      (2 ^ 64 - 1 < s.rpos.toNat + min w.toNat (8 * i + 8) → t.rdAns = s.rdAns.drop i)

/-- WRCHUNK of a legal width on a channel that is not poisoned, with a store that takes every byte: the chunk's bits are
accepted in order behind those accepted before, in `(PCNT + w) / 8` appends, `(PCNT + w) % 8` bits staying pending
(R136, R137). -/
def Obligations.WrchunkSendsTheChunk : Prop :=
  ∀ (s : State) (w : BitVec 16), 1 ≤ w.toNat → w.toNat ≤ s.par.wMax → s.cb.length = pbMax s.par →
    s.chPoison = false → s.accumulatorOk → s.canTake ((s.pcnt.toNat + w.toNat) / 8) →
    (∀ a ∈ s.wrAns.take ((s.pcnt.toNat + w.toNat) / 8), a = .ok) →
    ∃ t, exec (.wrchunk w) s = .next t ∧ t.writtenBits = s.writtenBits ++ s.cbBits w.toNat ∧
      Responds t 0 w.toNat 0 0 0 ∧ t.pcnt.toNat = (s.pcnt.toNat + w.toNat) % 8 ∧ t.accumulatorOk ∧
      t.stores.ws.len = s.stores.ws.len + (s.pcnt.toNat + w.toNat) / 8 ∧ t.chPoison = false ∧
      WriteFrame ((s.pcnt.toNat + w.toNat) / 8) s t ∧ t.turn = s.turn

/-- WRCHUNK whose append number `i` fails, because the store says so, no store is bound (R223; log entry 13) or the byte
would make RS too long (R61; log entry 15): R_BITS is the bits accepted before, WS holds the bytes appended before and the
failed one or not, which are the first ones of the bits accepted before the command followed by the chunk's, and the
channel is poisoned (R64, R137 (c), R193, R205). -/
def Obligations.WrchunkFailureCountsAcceptedBits : Prop :=
  ∀ (s : State) (w : BitVec 16) (i : Nat) (landed : Bool), w.toNat ≤ s.par.wMax → s.cb.length = pbMax s.par →
    s.chPoison = false → s.accumulatorOk →
    i < (s.pcnt.toNat + w.toNat) / 8 → (∀ j, j < i → s.appendAnswer j = .ok) → s.appendAnswer i = .err landed →
    1 ≤ w.toNat →
    ∃ t, exec (.wrchunk w) s = .next t ∧ Responds t 3 (8 * i) 0 0 0 ∧ t.chPoison = true ∧
      t.stores.ws.len = s.stores.ws.len + i + (if landed then 1 else 0) ∧
      streamBits t.stores.ws.bytes = (s.writtenBits ++ s.cbBits w.toNat).take (8 * t.stores.ws.len) ∧
      WriteFrame ((s.pcnt.toNat + w.toNat) / 8) s t

/-- R196: a width of 0 or above `W_MAX` has no effect but the status, whatever the flags. -/
def Obligations.InvalidWidthOnlyAnswers : Prop :=
  ∀ (s : State) (w : BitVec 16) (i : Instr), (i = .rdchunk w ∨ i = .wrchunk w ∨ i = .addinc w) →
    (w = 0 ∨ s.par.wMax < w.toNat) →
    exec i s = .next { s with rStat := 5, rBits := 0, rByte := 0, rVal := 0, rIdx := 0 }

/-- RDCHUNK and WRCHUNK of a legal width on a poisoned channel are refused (R110, R199). -/
def Obligations.PoisonedChannelRefusesChunks : Prop :=
  ∀ (s : State) (w : BitVec 16) (i : Instr), (i = .rdchunk w ∨ i = .wrchunk w) →
    1 ≤ w.toNat → w.toNat ≤ s.par.wMax → s.chPoison = true →
    exec i s = .next { s with rStat := 8, rBits := 0, rByte := 0, rVal := 0, rIdx := 0 }

/-- A store that never answers: each command that waits for it does not end, no response register is written, and the block
waits for that responder (R22, R236). Silent answers, and the field `turn` that says whom the block waits for, are the
model's form of this (log entry 6). RDBITS and FLUSH make one request; WRBITS makes one if it fills a byte, and that byte is
the first eight of the bits accepted before and now; of RDCHUNK and WRCHUNK request or append number `i` is the one not
answered. -/
def Obligations.UnansweredCommandDoesNotEnd : Prop :=
  ∀ s : State, s.chPoison = false →
    (∀ count : BitVec 4, 1 ≤ count.toNat → count.toNat ≤ 8 → s.rpos.toNat + count.toNat ≤ 2 ^ 64 - 1 →
      s.nextRead = .silent →
      exec (.rdbits count) s = .next { s with rdAns := s.rdAns.tail, turn := .rsResponder }) ∧
    (∀ (count : BitVec 4) (data : Byte) (landed : Bool), count.toNat ≤ 8 → 8 ≤ s.pcnt.toNat + count.toNat →
      s.nextAppend = .silent landed →
      ∃ b, exec (.wrbits count data) s = .next { s with
          wrAns := s.wrAns.tail
          stores := if landed then s.stores.append b else s.stores
          turn := .wsResponder } ∧
        (s.accumulatorOk → byteBits b = ((byteBits s.pbits).take s.pcnt.toNat ++ byteBits data).take 8)) ∧
    (∀ data landed, s.pcnt ≠ 0 → s.nextAppend = .silent landed →
      exec (.flush data) s = .next { s with
        wrAns := s.wrAns.tail
        stores := if landed then s.stores.append s.pbits else s.stores
        turn := .wsResponder }) ∧
    (∀ (w : BitVec 16) (i : Nat), w.toNat ≤ s.par.wMax → i < ceil8 w.toNat →
      s.rpos.toNat + min w.toNat (8 * i + 8) ≤ 2 ^ 64 - 1 → (i = 0 ∨ s.rpos.toNat + 8 * i ≤ 8 * s.rs.len) →
      s.rsBound = true → (∀ a ∈ s.rdAns.take i, a = .ok) → s.rdAns[i]? = some .silent →
      ∃ t, exec (.rdchunk w) s = .next t ∧ t.turn = .rsResponder ∧ SameResponse s t ∧ t.chPoison = false ∧
        t.rpos.toNat = s.rpos.toNat + 8 * i ∧ ReadFrame (i + 1) s t ∧ t.stores = s.stores ∧
        (∀ j, ceil8 w.toNat ≤ j → t.cb[j]? = s.cb[j]?)) ∧
    (∀ (w : BitVec 16) (i : Nat) (landed : Bool), 1 ≤ w.toNat → w.toNat ≤ s.par.wMax →
      i < (s.pcnt.toNat + w.toNat) / 8 → (∀ j, j < i → s.appendAnswer j = .ok) → s.appendAnswer i = .silent landed →
      ∃ t, exec (.wrchunk w) s = .next t ∧ t.turn = .wsResponder ∧ SameResponse s t ∧ t.chPoison = false ∧
        t.stores.ws.len = s.stores.ws.len + i + (if landed then 1 else 0) ∧
        WriteFrame ((s.pcnt.toNat + w.toNat) / 8) s t)

/-! ### The FrequencyTable -/

/-- R151: `cmpkey` answers EQ for equal keys alone and is a strict total order. -/
def Obligations.KeysAreTotallyOrdered : Prop :=
  (∀ a b : Key, cmpkey a b = .eq ↔ a = b) ∧ (∀ a b : Key, cmpkey a b = .lt ↔ cmpkey b a = .gt) ∧
  (∀ a b c : Key, cmpkey a b = .lt → cmpkey b c = .lt → cmpkey a c = .lt)

/-- R152: the fixed-width comparator gives the same order on keys that fit the buffer. -/
def Obligations.FixedWidthComparatorAgrees : Prop :=
  ∀ (n : Nat) (a b : Key), a.1.length = ceil8 a.2.toNat → b.1.length = ceil8 b.2.toNat → a.1.length ≤ n →
    b.1.length ≤ n → cmpkeyFixed n a b = cmpkey a b

/-- R154: the search finds the entry with the key, or the sorted insertion point. -/
def Obligations.SearchMeetsItsContract : Prop :=
  ∀ (k : Key) (es : List Entry), sortedEntries es →
    (∀ i (h : i < es.length), cmpkey k es[i].key = .eq → search k es = (true, i)) ∧
    ((∀ e ∈ es, cmpkey k e.key ≠ .eq) → ∃ p, search k es = (false, p) ∧ p ≤ es.length ∧
      p = es.countP (fun e => cmpkey e.key k == .lt) ∧
      (∀ i (h : i < es.length), i < p → cmpkey es[i].key k = .lt) ∧
      (∀ i (h : i < es.length), p ≤ i → cmpkey k es[i].key = .lt))

/-- R155: the reference binary search meets the contract of R154 on every sorted table. -/
def Obligations.BinarySearchMeetsTheContract : Prop :=
  ∀ (k : Key) (es : List Entry), sortedEntries es → refSearch k es = search k es

/-- ADDINC of a key that an entry holds, below the count limit: that count goes up by one and nothing else of the table
changes (R156, R157). -/
def Obligations.AddincCountsAKnownKey : Prop :=
  ∀ (s : State) (w : BitVec 16) (i : Nat), s.Inv → 1 ≤ w.toNat → w.toNat ≤ s.par.wMax → s.tFatal = false →
    i < s.tsize.toNat → (s.slot i).key = (canon s.cb w.toNat, w) → (s.slot i).count ≠ 0xFFFFFFFF →
    ∃ t, exec (.addinc w) s = .next t ∧ t.slot i = { s.slot i with count := (s.slot i).count + 1 } ∧
      (∀ j, j < s.tsize.toNat → j ≠ i → t.slot j = s.slot j) ∧
      Responds t 0 0 0 ((s.slot i).count.toNat + 1) i ∧
      t = { s with ent := t.ent, rStat := 0, rBits := 0, rByte := 0, rVal := t.rVal, rIdx := t.rIdx }

/-- ADDINC of a key that no entry holds, with room: a new entry with count 1 at the sorted insertion point, the entries
after it one slot up, the capacity doubled when the size would exceed it (R156, R159). -/
def Obligations.AddincInsertsANewKey : Prop :=
  ∀ (s : State) (w : BitVec 16), s.Inv → 1 ≤ w.toNat → w.toNat ≤ s.par.wMax → s.tFatal = false →
    (∀ i, i < s.tsize.toNat → (s.slot i).key ≠ (canon s.cb w.toNat, w)) → s.tsize.toNat < tableMax s.par →
    ∃ t p, exec (.addinc w) s = .next t ∧ p ≤ s.tsize.toNat ∧
      (∀ i, i < p → t.slot i = s.slot i ∧ cmpkey (s.slot i).key (canon s.cb w.toNat, w) = .lt) ∧
      t.slot p = { pat := canon s.cb w.toNat, width := w, count := 1 } ∧
      (∀ i, p ≤ i → i < s.tsize.toNat →
        t.slot (i + 1) = s.slot i ∧ cmpkey (canon s.cb w.toNat, w) (s.slot i).key = .lt) ∧
      t.tsize.toNat = s.tsize.toNat + 1 ∧
      t.tcap.toNat = (if s.tsize = s.tcap then 2 * s.tcap.toNat else s.tcap.toNat) ∧
      Responds t 0 0 1 1 p ∧
      t = { s with ent := t.ent, tsize := t.tsize, tcap := t.tcap, rStat := 0, rBits := 0, rByte := 1, rVal := 1,
                   rIdx := t.rIdx }

/-- R158: ADDINC of a key whose count is at its limit leaves the table exactly as it was and is fatal to it. -/
def Obligations.AddincStopsAtTheCountLimit : Prop :=
  ∀ (s : State) (w : BitVec 16) (i : Nat), s.Inv → 1 ≤ w.toNat → w.toNat ≤ s.par.wMax → s.tFatal = false →
    i < s.tsize.toNat → (s.slot i).key = (canon s.cb w.toNat, w) → (s.slot i).count = 0xFFFFFFFF →
    exec (.addinc w) s = .next { s with tFatal := true, rStat := 4, rBits := 0, rByte := 0, rVal := 0, rIdx := 0 }

/-- ADDINC of a new key on a full entry RAM leaves the table exactly as it was and is fatal to it (R160). -/
def Obligations.AddincStopsWhenTheTableIsFull : Prop :=
  ∀ (s : State) (w : BitVec 16), s.Inv → 1 ≤ w.toNat → w.toNat ≤ s.par.wMax → s.tFatal = false →
    (∀ i, i < s.tsize.toNat → (s.slot i).key ≠ (canon s.cb w.toNat, w)) → s.tsize.toNat = tableMax s.par →
    exec (.addinc w) s = .next { s with tFatal := true, rStat := 4, rBits := 0, rByte := 0, rVal := 0, rIdx := 0 }

/-- An ADDINC that ends OK raises the sum of the counts by one; one that does not changes no entry (R162). -/
def Obligations.AddincRaisesTheSumByOne : Prop :=
  ∀ (s t : State) (w : BitVec 16), s.Inv → exec (.addinc w) s = .next t →
    (t.rStat = 0 → t.countSum = s.countSum + 1) ∧ (t.rStat ≠ 0 → t.entries = s.entries)

/-- R153: bits of the buffer outside the chunk have no effect on ADDINC. -/
def Obligations.AddincIgnoresBitsOutsideTheChunk : Prop :=
  ∀ (s t : State) (w : BitVec 16) (cb' : List Byte),
    (∀ j, j < w.toNat → (s.cb.getD (j / 8) 0).getLsbD (7 - j % 8) = (cb'.getD (j / 8) 0).getLsbD (7 - j % 8)) →
    exec (.addinc w) s = .next t → exec (.addinc w) { s with cb := cb' } = .next { t with cb := cb' }

/-- TBLRD of an entry: its pattern in the buffer, its width, count and index in the response, the table unchanged
(R163). -/
def Obligations.TblrdDeliversTheEntry : Prop :=
  ∀ (s : State) (tidx : BitVec 24), s.Inv → s.tFatal = false → tidx.toNat < s.tsize.toNat →
    ∃ t, exec (.tblrd tidx) s = .next t ∧
      t.cb.take (ceil8 (s.slot tidx.toNat).width.toNat) = (s.slot tidx.toNat).pat ∧
      (∀ j, ceil8 (s.slot tidx.toNat).width.toNat ≤ j → t.cb[j]? = s.cb[j]?) ∧
      Responds t 0 (s.slot tidx.toNat).width.toNat 0 (s.slot tidx.toNat).count.toNat tidx.toNat ∧
      t = { s with cb := t.cb, rStat := 0, rBits := t.rBits, rByte := 0, rVal := t.rVal, rIdx := tidx }

/-- R200: ADDINC and TBLRD on a fatal table have no effect but the status; RDSR 5 and RDSR 6 still show `TSIZE` and
`TCAP`. -/
def Obligations.FatalTableRefuses : Prop :=
  ∀ s : State, s.tFatal = true →
    (∀ w : BitVec 16, 1 ≤ w.toNat → w.toNat ≤ s.par.wMax → exec (.addinc w) s =
      .next { s with rStat := 9, rBits := 0, rByte := 0, rVal := 0, rIdx := 0 }) ∧
    (∀ tidx, exec (.tblrd tidx) s = .next { s with rStat := 9, rBits := 0, rByte := 0, rVal := 0, rIdx := 0 }) ∧
    exec (.rdsr 5) s = .next { s with rStat := 0, rBits := 0, rByte := 0, rVal := s.tsize.setWidth 32, rIdx := 0 } ∧
    exec (.rdsr 6) s = .next { s with rStat := 0, rBits := 0, rByte := 0, rVal := s.tcap.setWidth 32, rIdx := 0 }

/-- R201: a buffer index or a table index out of range has no effect but the status. -/
def Obligations.IndexOutOfRangeOnlyAnswers : Prop :=
  ∀ s : State,
    (∀ bidx : BitVec 16, pbMax s.par ≤ bidx.toNat → exec (.ldcb bidx) s =
      .next { s with rStat := 10, rBits := 0, rByte := 0, rVal := 0, rIdx := 0 }) ∧
    (∀ (bidx : BitVec 16) data, pbMax s.par ≤ bidx.toNat → exec (.stcb bidx data) s =
      .next { s with rStat := 10, rBits := 0, rByte := 0, rVal := 0, rIdx := 0 }) ∧
    (∀ tidx : BitVec 24, s.tFatal = false → s.tsize.toNat ≤ tidx.toNat → exec (.tblrd tidx) s =
      .next { s with rStat := 10, rBits := 0, rByte := 0, rVal := 0, rIdx := 0 })

/-! ### The support commands -/

/-- R175: NOP, the word of zeros and no other, changes nothing but the response registers, in every state. -/
def Obligations.NopOnlyAnswers : Prop :=
  (∀ s : State, exec .nop s = .next { s with rStat := 0, rBits := 0, rByte := 0, rVal := 0, rIdx := 0 }) ∧
  ∀ c : Word, decode c = .ok .nop ↔ c = 0x00000000

/-- LDCB of a legal index returns the byte of the buffer, in every state (R176). STCB writes the byte it names and no other
(R178); LDCB of it then returns that byte, and LDCB of another index what it returned before. -/
def Obligations.BufferLoadsSeeStores : Prop :=
  (∀ (s : State) (b : BitVec 16), b.toNat < pbMax s.par → exec (.ldcb b) s =
    .next { s with rStat := 0, rBits := 0, rByte := s.cbByte b.toNat, rVal := 0, rIdx := 0 }) ∧
  ∀ (s : State) (b : BitVec 16) (data : Byte), s.cb.length = pbMax s.par → b.toNat < pbMax s.par →
    ∃ t, exec (.stcb b data) s = .next t ∧
      t = { s with cb := t.cb, rStat := 0, rBits := 0, rByte := 0, rVal := 0, rIdx := 0 } ∧
      t.cb.length = s.cb.length ∧ (∀ j, j ≠ b.toNat → t.cb[j]? = s.cb[j]?) ∧
      exec (.ldcb b) t = .next { t with rStat := 0, rBits := 0, rByte := data, rVal := 0, rIdx := 0 } ∧
      ∀ b' : BitVec 16, b' ≠ b → b'.toNat < pbMax s.par →
        exec (.ldcb b') t = .next { t with rStat := 0, rBits := 0, rByte := s.cbByte b'.toNat, rVal := 0, rIdx := 0 }

/-- RDSR of a register that shows no unspecified value: each field where R34 puts it, unnamed bits 0, no other effect
(R34, R35, R180). -/
def Obligations.RdsrReadsTheStatusRegister : Prop :=
  ∀ (s : State) (sel : BitVec 4), s.par.wf → sel.toNat ≤ 6 →
    (s.chPoison = true → sel ≠ 2 ∧ sel ≠ 3 ∧ sel ≠ 4) →
    ∃ v : BitVec 32, exec (.rdsr sel) s = .next { s with rStat := 0, rBits := 0, rByte := 0, rVal := v, rIdx := 0 } ∧
      (sel = 0 → (v.extractLsb' 0 16).toNat = s.par.wMax ∧ (v.extractLsb' 16 5).toNat = s.par.tableLog2 ∧
        v.extractLsb' 21 3 = 0 ∧ v.extractLsb' 24 8 = 1) ∧
      (sel = 1 → v.getLsbD 0 = s.chPoison ∧ v.getLsbD 1 = s.tFatal ∧ v.extractLsb' 2 30 = 0) ∧
      (sel = 2 → v = s.rpos.extractLsb' 0 32) ∧ (sel = 3 → v = s.rpos.extractLsb' 32 32) ∧
      (sel = 4 → v.extractLsb' 0 8 = s.pbits ∧ v.extractLsb' 8 3 = s.pcnt ∧ v.extractLsb' 11 21 = 0) ∧
      (sel = 5 → v.toNat = s.tsize.toNat) ∧ (sel = 6 → v.toNat = s.tcap.toNat)

/-- RDSR of SR2, SR3, SR4 on a poisoned channel: OK, the zero fields read 0, and nothing else changes but the model's count
of free values (R35; log entries 8 and 16). -/
def Obligations.RdsrOfAPoisonedChannel : Prop :=
  ∀ (s : State) (sel : BitVec 4), s.chPoison = true → (sel = 2 ∨ sel = 3 ∨ sel = 4) →
    ∃ v : BitVec 32, exec (.rdsr sel) s =
      .next { s with rStat := 0, rBits := 0, rByte := 0, rVal := v, rIdx := 0, freeCtr := s.freeCtr + 1 } ∧
      (sel = 4 → v.extractLsb' 11 21 = 0)

/-- R182: CHRESET, one word, clears the four channel registers and leaves everything else, in every state. -/
def Obligations.ChresetClearsTheChannel : Prop :=
  (∀ s : State, exec .chreset s = .next { s with
    rpos := 0, pbits := 0, pcnt := 0, chPoison := false, rStat := 0, rBits := 0, rByte := 0, rVal := 0, rIdx := 0 }) ∧
  ∀ c : Word, decode c = .ok .chreset ↔ c = 0xA0000000

/-- R184: TBLRESET, one word, empties the table and leaves everything else, in every state; no other command recovers a
fatal table. -/
def Obligations.TblresetEmptiesTheTable : Prop :=
  (∀ s : State, ∃ t, exec .tblreset s = .next t ∧ t.entries = [] ∧ t = { s with
    tsize := 0, tcap := 1, tFatal := false, rStat := 0, rBits := 0, rByte := 0, rVal := 0, rIdx := 0 }) ∧
  (∀ c : Word, decode c = .ok .tblreset ↔ c = 0xB0000000) ∧
  ∀ (i : Instr) (s t : State), exec i s = .next t → s.tFatal = true → t.tFatal = false → i = .tblreset

/-! ### Whole-machine rules -/

/-- With stores that answer, every command ends (R22, R236). -/
def Obligations.EveryCommandEnds : Prop :=
  ∀ (i : Instr) (s : State), (∀ a ∈ s.rdAns, a ≠ .silent) → (∀ a ∈ s.wrAns, ∀ landed, a ≠ .silent landed) →
    ∃ t, exec i s = .next t ∧ t.turn = s.turn

/-- A command that ends, ends with a code of its row of R202, and no other. -/
def Obligations.CommandsEndWithTheirCodes : Prop :=
  ∀ (i : Instr) (s t : State), s.turn = .host → exec i s = .next t → t.turn = .host → t.rStat.toNat ∈ i.codes

/-- The response of a command that ends does not depend on any earlier response (R22). -/
def Obligations.ResponsesAreNeverStale : Prop :=
  ∀ (i : Instr) (s t : State) (st : BitVec 4) (n : BitVec 16) (b : Byte) (v : BitVec 32) (x : BitVec 24),
    s.turn = .host → exec i s = .next t → t.turn = .host →
    exec i { s with rStat := st, rBits := n, rByte := b, rVal := v, rIdx := x } = .next t

/-- Between two channel resets the cursor never decreases (R24, R38 (b)). -/
def Obligations.CursorOnlyMovesForward : Prop :=
  ∀ (i : Instr) (s t : State), i ≠ .chreset → s.chPoison = false → exec i s = .next t → t.chPoison = false →
    s.rpos.toNat ≤ t.rpos.toNat

/-- `CH_POISON` is set by a channel command that ends with IO_FAILURE and by nothing else, and of the commands only
CHRESET clears it (R26). -/
def Obligations.PoisonIsSetByIoFailureAlone : Prop :=
  ∀ (i : Instr) (s t : State), exec i s = .next t →
    (s.chPoison = false → t.chPoison = true → i.isChannel = true ∧ t.rStat = 3) ∧
    (i.isChannel = true → s.turn = .host → t.turn = .host → t.rStat = 3 → t.chPoison = true) ∧
    (s.chPoison = true → t.chPoison = false → i = .chreset)

/-- `T_FATAL` is set by an ADDINC that ends with RESOURCE_EXHAUSTED and by nothing else, and of the commands only TBLRESET
clears it (R32). -/
def Obligations.FatalIsSetByExhaustionAlone : Prop :=
  ∀ (i : Instr) (s t : State), exec i s = .next t →
    (s.tFatal = false → t.tFatal = true → (∃ w, i = .addinc w) ∧ t.rStat = 4) ∧
    (∀ w, i = .addinc w → t.rStat = 4 → t.tFatal = true) ∧
    (s.tFatal = true → t.tFatal = false → i = .tblreset)

/-- Channel commands do not depend on the table and leave it alone; table commands do not depend on the channel and leave
it alone: neither flag stops the other unit (R161 (i), R206). -/
def Obligations.ChannelAndTableAreIndependent : Prop :=
  ∀ (i : Instr) (s t : State), exec i s = .next t →
    (i.isChannel = true → ∀ ent tsize tcap f,
      exec i { s with ent := ent, tsize := tsize, tcap := tcap, tFatal := f } =
        .next { t with ent := ent, tsize := tsize, tcap := tcap, tFatal := f }) ∧
    ((∃ w, i = .addinc w) ∨ (∃ x, i = .tblrd x) → ∀ rpos pbits pcnt p,
      exec i { s with rpos := rpos, pbits := pbits, pcnt := pcnt, chPoison := p } =
        .next { t with rpos := rpos, pbits := pbits, pcnt := pcnt, chPoison := p })

/-- No result depends on the unspecified cursor and accumulator of a poisoned channel (R26, R199, R205). The spec exempts
RDSR of SR2, SR3 and SR4, whose reads may show anything (R35, 93_implementation_defined U1): that they too do not depend on
what the registers hold is the model's choice, which draws fresh free values at each such read (log entry 8). -/
def Obligations.PoisonedRegistersAreNeverUsed : Prop :=
  ∀ (i : Instr) (s t : State) (rpos : BitVec 64) (pbits : Byte) (pcnt : BitVec 3), s.chPoison = true →
    exec i s = .next t →
    exec i { s with rpos := rpos, pbits := pbits, pcnt := pcnt } =
      .next (if i = .chreset then t else { t with rpos := rpos, pbits := pbits, pcnt := pcnt })

/-! ### The ports and what another party does -/

/-- Binding the ports changes what they reach and nothing else (log entry 14). On an unbound read port every read is end of
stream, whatever is listed; on an unbound write port every append answers `err` and no byte lands (R223; log entry 13), and where
RS, being WS, has no room left no byte lands either, and the answer is `err` or none (R61, R76, R236; log entry 15). An RDCHUNK whose store is changed by another party before
each of its reads takes each byte's bits from RS as it is at that byte's read (R72, R239; log entry 14). -/
def Obligations.PortsReachTheStoresAsTheyAre : Prop :=
  ∀ s : State,
    (∀ st r w q, s.turn = .host → s.hostq = .bind st r w :: q →
      step s = .next { s with stores := st, rsBound := r, wsBound := w, hostq := q }) ∧
    (s.rsBound = false → (∀ a n, storeRead a n s = (.bytes 0 0 0, { s with rdAns := s.rdAns.tail })) ∧
      ∀ count : BitVec 4, 1 ≤ count.toNat → count.toNat ≤ 8 → s.chPoison = false →
        s.rpos.toNat + count.toNat ≤ 2 ^ 64 - 1 → exec (.rdbits count) s =
          .next { s with rdAns := s.rdAns.tail, rStat := 2, rBits := 0, rByte := 0, rVal := 0, rIdx := 0 }) ∧
    (s.wsBound = false → ∀ b, storeAppend b s = (.err, { s with wrAns := s.wrAns.tail })) ∧
    (s.wsBound = true → s.stores.alias = true → storeMax ≤ s.stores.ws.len → ∀ b,
      (∀ landed, s.wrAns.head? = some (.silent landed) →
        storeAppend b s = (.silent, { s with wrAns := s.wrAns.tail })) ∧
      ((∀ landed, s.wrAns.head? ≠ some (.silent landed)) →
        storeAppend b s = (.err, { s with wrAns := s.wrAns.tail }))) ∧
    (∀ (w : BitVec 16) (f : Nat → Memory) (rest : List ReadAnswer), 1 ≤ w.toNat → w.toNat ≤ s.par.wMax → s.par.wf →
      s.cb.length = pbMax s.par → s.chPoison = false → s.rsBound = true → s.rpos.toNat + w.toNat ≤ 2 ^ 64 - 1 →
      (∀ i, i < ceil8 w.toNat → Memory.wf (f i) ∧ s.rpos.toNat + w.toNat ≤ 8 * (f i).len) →
      s.rdAns = (List.range (ceil8 w.toNat)).map (fun i => .okAfter (f i)) ++ rest →
      ∃ t, exec (.rdchunk w) s = .next t ∧ Responds t 0 w.toNat 0 0 0 ∧
        (∀ j, j < w.toNat → (t.cbByte (j / 8)).getLsbD (7 - j % 8) = Memory.bit (f (j / 8)) (s.rpos.toNat + j)) ∧
        t.rpos.toNat = s.rpos.toNat + w.toNat ∧ t.rs = f (ceil8 w.toNat - 1) ∧ t.rdAns = rest ∧ ReadFrame (ceil8 w.toNat) s t)
end

