-- ==== Sys2Proof/Laws/Bits.lean ====
section
/-! SUPPORT. The mask and the two barrel shifters, bit by bit in stream order (R12, R13, R112, R117). -/

namespace Sys2Proof.Machine

/-- The mask keeps the `n` earliest bits of a byte. -/
theorem himask_bit {n j : Nat} (hn : n ≤ 8) (hj : j < 8) : (himask n).getLsbD (7 - j) = decide (j < n) := by
  have key : ∀ n : Fin 9, ∀ j : Fin 8, (himask n).getLsbD (7 - j) = decide ((j : Nat) < n) := by decide
  exact key ⟨n, by omega⟩ ⟨j, hj⟩

/-- Masking a byte keeps its `n` earliest bits and clears the others. -/
theorem and_himask_bit (b : Byte) {n j : Nat} (hn : n ≤ 8) (hj : j < 8) :
    (b &&& himask n).getLsbD (7 - j) = (b.getLsbD (7 - j) && decide (j < n)) := by
  rw [BitVec.getLsbD_and, himask_bit hn hj]

/-- Two bytes side by side in a 16-bit window, from its top bit down. -/
theorem window_bit (hi lo : Byte) {x : Nat} (hx : x < 16) :
    (hi.setWidth 16 <<< 8 ||| lo.setWidth 16 : BitVec 16).getLsbD (15 - x) =
      if x < 8 then hi.getLsbD (7 - x) else lo.getLsbD (15 - x) := by
  interval_cases x <;> simp [-BitVec.getLsbD_eq_getElem]

/-- Bit `j` of the read shifter's byte is bit `off + j` of the bytes read; a byte that was not read is zero. -/
theorem readShift_bit (k : Nat) (d0 d1 : Byte) {off j : Nat} (ho : off < 8) (hj : j < 8) :
    (readShift k d0 d1 off).getLsbD (7 - j) =
      if off + j < 8 then decide (1 ≤ k) && d0.getLsbD (7 - (off + j))
      else decide (2 ≤ k) && d1.getLsbD (15 - (off + j)) := by
  have e : 8 + (7 - j) = 15 - j := by omega
  have e' : 15 - j - off = 15 - (off + j) := by omega
  have a1 : (decide (7 - j < 8)) = true := by simp; omega
  have a2 : (decide (15 - j < 16)) = true := by simp; omega
  have a3 : (decide (15 - j < off)) = false := by simp; omega
  simp only [readShift, BitVec.getLsbD_extractLsb', BitVec.getLsbD_shiftLeft, e, e', a1, a2, a3, Bool.true_and,
    Bool.not_false]
  rw [window_bit _ _ (by omega)]
  split
  · by_cases h : 1 ≤ k <;> simp [h]
  · by_cases h : 2 ≤ k <;> simp [h]

/-- Bit `x` of the write shifter's window is a pending bit, or one of the `count` new bits right after the `pcnt`
pending ones. -/
theorem writeShift_bit (pbits data : Byte) {pcnt count x : Nat} (hp : pcnt < 8) (hc : count ≤ 8) (hx : x < 16) :
    (writeShift pbits pcnt count data).getLsbD (15 - x) =
      ((decide (x < 8) && pbits.getLsbD (7 - x)) ||
        (decide (pcnt ≤ x) && decide (x - pcnt < count) && data.getLsbD (7 - (x - pcnt)))) := by
  have low : (pbits.setWidth 16 <<< 8 : BitVec 16).getLsbD (15 - x) = (decide (x < 8) && pbits.getLsbD (7 - x)) := by
    interval_cases x <;> simp [-BitVec.getLsbD_eq_getElem]
  have high : ((data &&& himask count).setWidth 16 <<< (8 - pcnt) : BitVec 16).getLsbD (15 - x) =
      (decide (pcnt ≤ x) && decide (x - pcnt < count) && data.getLsbD (7 - (x - pcnt))) := by
    by_cases h1 : pcnt ≤ x
    · by_cases h8 : x - pcnt < 8
      · have := and_himask_bit data hc h8
        simp only [BitVec.getLsbD_shiftLeft, BitVec.getLsbD_setWidth]
        have e : 15 - x - (8 - pcnt) = 7 - (x - pcnt) := by omega
        rw [e, this]
        have a1 : (decide (15 - x < 16)) = true := by simp; omega
        have a2 : (decide (15 - x < 8 - pcnt)) = false := by simp; omega
        have a3 : (decide (7 - (x - pcnt) < 16)) = true := by simp; omega
        simp [a1, a2, a3, h1, Bool.and_comm, -BitVec.getLsbD_eq_getElem]
      · have a2 : (decide (15 - x < 8 - pcnt)) = true := by simp; omega
        have a4 : decide (x - pcnt < count) = false := by simp; omega
        simp [BitVec.getLsbD_shiftLeft, a2, a4]
    · have e : 8 ≤ 15 - x - (8 - pcnt) := by omega
      have hz : ((data &&& himask count).setWidth 16).getLsbD (15 - x - (8 - pcnt)) = false := by
        rw [BitVec.getLsbD_setWidth, BitVec.getLsbD_of_ge _ _ e, Bool.and_false]
      rw [BitVec.getLsbD_shiftLeft, hz]
      simp [h1]
  rw [writeShift, BitVec.getLsbD_or, low, high]

end Sys2Proof.Machine
end

