-- ==== Sys2Proof/Laws/Memory.lean ====
section
/-! SUPPORT. The stores: reading what was appended, leaving the rest alone, and the canonical form, which every
memory operation keeps and reset has. -/

namespace Sys2Proof.Machine

@[simp] theorem append_len (m : Memory) (b : Byte) : Memory.len (Memory.append m b) = m.len + 1 := by
  simp [Memory.len, Memory.append]

@[simp] theorem append_bytes (m : Memory) (b : Byte) : Memory.bytes (Memory.append m b) = m.bytes ++ [b] := by
  simp [Memory.bytes, Memory.append]

theorem append_wf {m : Memory} (h : Memory.wf m) (b : Byte) : Memory.wf (Memory.append m b) := by
  simp only [Memory.wf, Memory.append, List.map_append, List.length_append, List.map_cons, List.map_nil,
    List.length_cons, List.length_nil, List.range_succ] at *
  rw [h]

theorem ofBytes_wf (bs : List Byte) : Memory.wf (Memory.ofBytes bs) := by
  simp [Memory.wf, Memory.ofBytes, List.map_fst_zip]

/-- An append leaves every address but the one past the end alone. -/
theorem append_read?_ne (m : Memory) (b : Byte) {a : Nat} (h : a ≠ m.len) :
    Memory.read? (Memory.append m b) a = m.read? a := by
  have hne : (a == m.length) = false := by simpa [Memory.len] using h
  simp [Memory.read?, Memory.append, List.lookup_append, List.lookup_cons, hne]

theorem lookup_range' (m : Memory) (lo a : Nat) (h : m.map Prod.fst = List.range' lo m.length) :
    m.lookup a = if lo ≤ a then (m.map Prod.snd)[a - lo]? else none := by
  induction m generalizing lo with
  | nil => simp
  | cons c m ih =>
    obtain ⟨x, b⟩ := c
    simp only [List.map_cons, List.length_cons, List.range'_succ, List.cons.injEq] at h
    obtain ⟨rfl, h⟩ := h
    rw [List.lookup_cons]
    by_cases hx : a = x
    · subst hx; simp
    · have hf : (a == x) = false := by simpa using hx
      simp only [hf, ih _ h]
      by_cases hle : x ≤ a
      · have h1 : x + 1 ≤ a := by omega
        have h2 : a - x = (a - (x + 1)) + 1 := by omega
        simp [hle, h1, h2]
      · have h1 : ¬ x + 1 ≤ a := by omega
        simp [hle, h1]

/-- In canonical form a store is its byte sequence. -/
theorem read?_eq_getElem? {m : Memory} (h : Memory.wf m) (a : Nat) : m.read? a = m.bytes[a]? := by
  have := lookup_range' m 0 a (by simpa [Memory.wf, List.range_eq_range'] using h)
  simpa [Memory.read?, Memory.bytes] using this

theorem bytes_length (m : Memory) : m.bytes.length = m.len := by simp [Memory.bytes, Memory.len]

/-- The byte just appended is at the old end. -/
theorem append_read?_self {m : Memory} (h : Memory.wf m) (b : Byte) :
    Memory.read? (Memory.append m b) m.len = some b := by
  rw [read?_eq_getElem? (append_wf h b), append_bytes, ← bytes_length]
  simp

@[simp] theorem stores_append_ws (st : Stores) (b : Byte) : (st.append b).ws = Memory.append st.ws b := by
  cases st <;> rfl

theorem stores_append_rs (st : Stores) (b : Byte) :
    (st.append b).rs = if st.alias then Memory.append st.rs b else st.rs := by
  cases st <;> rfl

@[simp] theorem stores_append_alias (st : Stores) (b : Byte) : (st.append b).alias = st.alias := by
  cases st <;> rfl

theorem stores_append_wf {st : Stores} (h : st.wf) (hr : st.hasRoom 1 = true) (b : Byte) : (st.append b).wf := by
  refine ⟨?_, by simpa using append_wf h.2 b⟩
  rw [stores_append_rs]
  cases st with
  | separate rs ws => exact h.1
  | shared m =>
    refine ⟨append_wf h.2 b, ?_⟩
    simpa [Stores.hasRoom, Stores.alias, Stores.ws, Stores.rs] using hr

/-! ### Another party's change of RS -/

@[simp] theorem withRs_rs (st : Stores) (rs : Memory) : (st.withRs rs).rs = rs := by cases st <;> rfl

@[simp] theorem withRs_alias (st : Stores) (rs : Memory) : (st.withRs rs).alias = st.alias := by cases st <;> rfl

theorem withRs_ws {st : Stores} (h : st.alias = false) (rs : Memory) : (st.withRs rs).ws = st.ws := by
  cases st with
  | separate rs' ws => rfl
  | shared m => cases h

theorem withRs_wf {st : Stores} (h : st.wf) {rs : Memory} (hr : Memory.rsOk rs) : (st.withRs rs).wf := by
  cases st with
  | separate rs' ws => exact ⟨hr, h.2⟩
  | shared m => exact ⟨hr, hr.1⟩

/-- Everything a read can do to the stores: nothing, or the change that its answer carries (R72). -/
theorem rdNext_stores_cases (s : State) :
    ((∀ rs, s.nextRead ≠ .okAfter rs) ∧ s.rdNext.stores = s.stores) ∨
    (∃ rs, s.nextRead = .okAfter rs ∧ s.rsBound = true ∧ .okAfter rs ∈ s.rdAns ∧ s.rdNext.stores = s.stores.withRs rs) := by
  cases h : s.nextRead with
  | okAfter rs =>
    have hr : s.rdNext.stores = s.stores.withRs rs := by simp only [State.rdNext, Stores.seenAt, h]
    unfold State.nextRead at h
    split at h
    · next hb =>
      refine .inr ⟨rs, rfl, hb, ?_, hr⟩
      cases ha : s.rdAns with
      | nil => simp [ha] at h
      | cons a l => simp [ha] at h; simp [h]
    · cases h
  | ok => exact .inl ⟨by simp, by simp only [State.rdNext, Stores.seenAt, h]⟩
  | err => exact .inl ⟨by simp, by simp only [State.rdNext, Stores.seenAt, h]⟩
  | silent => exact .inl ⟨by simp, by simp only [State.rdNext, Stores.seenAt, h]⟩

@[simp] theorem rdNext_stores_alias (s : State) : s.rdNext.stores.alias = s.stores.alias := by
  rcases rdNext_stores_cases s with ⟨_, h⟩ | ⟨rs, _, _, _, h⟩ <;> simp [h]

theorem rdNext_stores_ws {s : State} (h : s.stores.alias = false) : s.rdNext.stores.ws = s.stores.ws := by
  rcases rdNext_stores_cases s with ⟨_, e⟩ | ⟨rs, _, _, _, e⟩ <;> simp [e, withRs_ws h]

/-- Without a change by another party a read leaves the stores and what the port reaches. -/
theorem rdNext_rs {s : State} (h : ∀ rs, s.nextRead ≠ .okAfter rs) : s.rdNext.rs = s.rs := by
  rcases rdNext_stores_cases s with ⟨_, e⟩ | ⟨rs, e, _⟩
  · show (if s.rsBound then s.rdNext.stores.rs else []) = s.rs
    rw [e]; rfl
  · exact absurd e (h rs)

theorem reset_stores_wf : State.reset.stores.wf := by decide

end Sys2Proof.Machine
end

