-- ==== Sys2Proof/Laws/State.lean ====
section
/-! SUPPORT. One lemma per field per update of the state, so that no later proof unfolds a record update; the updates
that are other updates in disguise; and the table views that an update leaves alone. -/

namespace Sys2Proof.Machine

/-! ### poison -/

@[simp] theorem poison_par (s : State) : (s.poison).par = s.par := rfl
@[simp] theorem poison_rpos (s : State) : (s.poison).rpos = Config.freeRpos s.freeCtr := rfl
@[simp] theorem poison_pbits (s : State) : (s.poison).pbits = Config.freePbits s.freeCtr := rfl
@[simp] theorem poison_pcnt (s : State) : (s.poison).pcnt = Config.freePcnt s.freeCtr := rfl
@[simp] theorem poison_chPoison (s : State) : (s.poison).chPoison = true := rfl
@[simp] theorem poison_cb (s : State) : (s.poison).cb = s.cb := rfl
@[simp] theorem poison_ent (s : State) : (s.poison).ent = s.ent := rfl
@[simp] theorem poison_tsize (s : State) : (s.poison).tsize = s.tsize := rfl
@[simp] theorem poison_tcap (s : State) : (s.poison).tcap = s.tcap := rfl
@[simp] theorem poison_tFatal (s : State) : (s.poison).tFatal = s.tFatal := rfl
@[simp] theorem poison_rStat (s : State) : (s.poison).rStat = s.rStat := rfl
@[simp] theorem poison_rBits (s : State) : (s.poison).rBits = s.rBits := rfl
@[simp] theorem poison_rByte (s : State) : (s.poison).rByte = s.rByte := rfl
@[simp] theorem poison_rVal (s : State) : (s.poison).rVal = s.rVal := rfl
@[simp] theorem poison_rIdx (s : State) : (s.poison).rIdx = s.rIdx := rfl
@[simp] theorem poison_stores (s : State) : (s.poison).stores = s.stores := rfl
@[simp] theorem poison_rsBound (s : State) : (s.poison).rsBound = s.rsBound := rfl
@[simp] theorem poison_wsBound (s : State) : (s.poison).wsBound = s.wsBound := rfl
@[simp] theorem poison_rdAns (s : State) : (s.poison).rdAns = s.rdAns := rfl
@[simp] theorem poison_wrAns (s : State) : (s.poison).wrAns = s.wrAns := rfl
@[simp] theorem poison_hostq (s : State) : (s.poison).hostq = s.hostq := rfl
@[simp] theorem poison_turn (s : State) : (s.poison).turn = s.turn := rfl
@[simp] theorem poison_freeCtr (s : State) : (s.poison).freeCtr = s.freeCtr + 1 := rfl

/-! ### fatal -/

@[simp] theorem fatal_par (s : State) : (s.fatal).par = s.par := rfl
@[simp] theorem fatal_rpos (s : State) : (s.fatal).rpos = s.rpos := rfl
@[simp] theorem fatal_pbits (s : State) : (s.fatal).pbits = s.pbits := rfl
@[simp] theorem fatal_pcnt (s : State) : (s.fatal).pcnt = s.pcnt := rfl
@[simp] theorem fatal_chPoison (s : State) : (s.fatal).chPoison = s.chPoison := rfl
@[simp] theorem fatal_cb (s : State) : (s.fatal).cb = s.cb := rfl
@[simp] theorem fatal_ent (s : State) : (s.fatal).ent = s.ent := rfl
@[simp] theorem fatal_tsize (s : State) : (s.fatal).tsize = s.tsize := rfl
@[simp] theorem fatal_tcap (s : State) : (s.fatal).tcap = s.tcap := rfl
@[simp] theorem fatal_tFatal (s : State) : (s.fatal).tFatal = true := rfl
@[simp] theorem fatal_rStat (s : State) : (s.fatal).rStat = s.rStat := rfl
@[simp] theorem fatal_rBits (s : State) : (s.fatal).rBits = s.rBits := rfl
@[simp] theorem fatal_rByte (s : State) : (s.fatal).rByte = s.rByte := rfl
@[simp] theorem fatal_rVal (s : State) : (s.fatal).rVal = s.rVal := rfl
@[simp] theorem fatal_rIdx (s : State) : (s.fatal).rIdx = s.rIdx := rfl
@[simp] theorem fatal_stores (s : State) : (s.fatal).stores = s.stores := rfl
@[simp] theorem fatal_rsBound (s : State) : (s.fatal).rsBound = s.rsBound := rfl
@[simp] theorem fatal_wsBound (s : State) : (s.fatal).wsBound = s.wsBound := rfl
@[simp] theorem fatal_rdAns (s : State) : (s.fatal).rdAns = s.rdAns := rfl
@[simp] theorem fatal_wrAns (s : State) : (s.fatal).wrAns = s.wrAns := rfl
@[simp] theorem fatal_hostq (s : State) : (s.fatal).hostq = s.hostq := rfl
@[simp] theorem fatal_turn (s : State) : (s.fatal).turn = s.turn := rfl
@[simp] theorem fatal_freeCtr (s : State) : (s.fatal).freeCtr = s.freeCtr := rfl

/-! ### respond -/

@[simp] theorem respond_par (s : State) (st : Status) (n : Nat) (b : Byte) (v : BitVec 32) (i : Nat) : (s.respond st n b v i).par = s.par := rfl
@[simp] theorem respond_rpos (s : State) (st : Status) (n : Nat) (b : Byte) (v : BitVec 32) (i : Nat) : (s.respond st n b v i).rpos = s.rpos := rfl
@[simp] theorem respond_pbits (s : State) (st : Status) (n : Nat) (b : Byte) (v : BitVec 32) (i : Nat) : (s.respond st n b v i).pbits = s.pbits := rfl
@[simp] theorem respond_pcnt (s : State) (st : Status) (n : Nat) (b : Byte) (v : BitVec 32) (i : Nat) : (s.respond st n b v i).pcnt = s.pcnt := rfl
@[simp] theorem respond_chPoison (s : State) (st : Status) (n : Nat) (b : Byte) (v : BitVec 32) (i : Nat) : (s.respond st n b v i).chPoison = s.chPoison := rfl
@[simp] theorem respond_cb (s : State) (st : Status) (n : Nat) (b : Byte) (v : BitVec 32) (i : Nat) : (s.respond st n b v i).cb = s.cb := rfl
@[simp] theorem respond_ent (s : State) (st : Status) (n : Nat) (b : Byte) (v : BitVec 32) (i : Nat) : (s.respond st n b v i).ent = s.ent := rfl
@[simp] theorem respond_tsize (s : State) (st : Status) (n : Nat) (b : Byte) (v : BitVec 32) (i : Nat) : (s.respond st n b v i).tsize = s.tsize := rfl
@[simp] theorem respond_tcap (s : State) (st : Status) (n : Nat) (b : Byte) (v : BitVec 32) (i : Nat) : (s.respond st n b v i).tcap = s.tcap := rfl
@[simp] theorem respond_tFatal (s : State) (st : Status) (n : Nat) (b : Byte) (v : BitVec 32) (i : Nat) : (s.respond st n b v i).tFatal = s.tFatal := rfl
@[simp] theorem respond_rStat (s : State) (st : Status) (n : Nat) (b : Byte) (v : BitVec 32) (i : Nat) : (s.respond st n b v i).rStat = st.code := rfl
@[simp] theorem respond_rBits (s : State) (st : Status) (n : Nat) (b : Byte) (v : BitVec 32) (i : Nat) : (s.respond st n b v i).rBits = BitVec.ofNat 16 n := rfl
@[simp] theorem respond_rByte (s : State) (st : Status) (n : Nat) (b : Byte) (v : BitVec 32) (i : Nat) : (s.respond st n b v i).rByte = b := rfl
@[simp] theorem respond_rVal (s : State) (st : Status) (n : Nat) (b : Byte) (v : BitVec 32) (i : Nat) : (s.respond st n b v i).rVal = v := rfl
@[simp] theorem respond_rIdx (s : State) (st : Status) (n : Nat) (b : Byte) (v : BitVec 32) (i : Nat) : (s.respond st n b v i).rIdx = BitVec.ofNat 24 i := rfl
@[simp] theorem respond_stores (s : State) (st : Status) (n : Nat) (b : Byte) (v : BitVec 32) (i : Nat) : (s.respond st n b v i).stores = s.stores := rfl
@[simp] theorem respond_rsBound (s : State) (st : Status) (n : Nat) (b : Byte) (v : BitVec 32) (i : Nat) : (s.respond st n b v i).rsBound = s.rsBound := rfl
@[simp] theorem respond_wsBound (s : State) (st : Status) (n : Nat) (b : Byte) (v : BitVec 32) (i : Nat) : (s.respond st n b v i).wsBound = s.wsBound := rfl
@[simp] theorem respond_rdAns (s : State) (st : Status) (n : Nat) (b : Byte) (v : BitVec 32) (i : Nat) : (s.respond st n b v i).rdAns = s.rdAns := rfl
@[simp] theorem respond_wrAns (s : State) (st : Status) (n : Nat) (b : Byte) (v : BitVec 32) (i : Nat) : (s.respond st n b v i).wrAns = s.wrAns := rfl
@[simp] theorem respond_hostq (s : State) (st : Status) (n : Nat) (b : Byte) (v : BitVec 32) (i : Nat) : (s.respond st n b v i).hostq = s.hostq := rfl
@[simp] theorem respond_turn (s : State) (st : Status) (n : Nat) (b : Byte) (v : BitVec 32) (i : Nat) : (s.respond st n b v i).turn = s.turn := rfl
@[simp] theorem respond_freeCtr (s : State) (st : Status) (n : Nat) (b : Byte) (v : BitVec 32) (i : Nat) : (s.respond st n b v i).freeCtr = s.freeCtr := rfl

/-! ### waitFor -/

@[simp] theorem waitFor_par (s : State) (a : Agent) : (s.waitFor a).par = s.par := rfl
@[simp] theorem waitFor_rpos (s : State) (a : Agent) : (s.waitFor a).rpos = s.rpos := rfl
@[simp] theorem waitFor_pbits (s : State) (a : Agent) : (s.waitFor a).pbits = s.pbits := rfl
@[simp] theorem waitFor_pcnt (s : State) (a : Agent) : (s.waitFor a).pcnt = s.pcnt := rfl
@[simp] theorem waitFor_chPoison (s : State) (a : Agent) : (s.waitFor a).chPoison = s.chPoison := rfl
@[simp] theorem waitFor_cb (s : State) (a : Agent) : (s.waitFor a).cb = s.cb := rfl
@[simp] theorem waitFor_ent (s : State) (a : Agent) : (s.waitFor a).ent = s.ent := rfl
@[simp] theorem waitFor_tsize (s : State) (a : Agent) : (s.waitFor a).tsize = s.tsize := rfl
@[simp] theorem waitFor_tcap (s : State) (a : Agent) : (s.waitFor a).tcap = s.tcap := rfl
@[simp] theorem waitFor_tFatal (s : State) (a : Agent) : (s.waitFor a).tFatal = s.tFatal := rfl
@[simp] theorem waitFor_rStat (s : State) (a : Agent) : (s.waitFor a).rStat = s.rStat := rfl
@[simp] theorem waitFor_rBits (s : State) (a : Agent) : (s.waitFor a).rBits = s.rBits := rfl
@[simp] theorem waitFor_rByte (s : State) (a : Agent) : (s.waitFor a).rByte = s.rByte := rfl
@[simp] theorem waitFor_rVal (s : State) (a : Agent) : (s.waitFor a).rVal = s.rVal := rfl
@[simp] theorem waitFor_rIdx (s : State) (a : Agent) : (s.waitFor a).rIdx = s.rIdx := rfl
@[simp] theorem waitFor_stores (s : State) (a : Agent) : (s.waitFor a).stores = s.stores := rfl
@[simp] theorem waitFor_rsBound (s : State) (a : Agent) : (s.waitFor a).rsBound = s.rsBound := rfl
@[simp] theorem waitFor_wsBound (s : State) (a : Agent) : (s.waitFor a).wsBound = s.wsBound := rfl
@[simp] theorem waitFor_rdAns (s : State) (a : Agent) : (s.waitFor a).rdAns = s.rdAns := rfl
@[simp] theorem waitFor_wrAns (s : State) (a : Agent) : (s.waitFor a).wrAns = s.wrAns := rfl
@[simp] theorem waitFor_hostq (s : State) (a : Agent) : (s.waitFor a).hostq = s.hostq := rfl
@[simp] theorem waitFor_turn (s : State) (a : Agent) : (s.waitFor a).turn = a := rfl
@[simp] theorem waitFor_freeCtr (s : State) (a : Agent) : (s.waitFor a).freeCtr = s.freeCtr := rfl

/-! ### setCb -/

@[simp] theorem setCb_par (s : State) (i : Nat) (b : Byte) : (s.setCb i b).par = s.par := rfl
@[simp] theorem setCb_rpos (s : State) (i : Nat) (b : Byte) : (s.setCb i b).rpos = s.rpos := rfl
@[simp] theorem setCb_pbits (s : State) (i : Nat) (b : Byte) : (s.setCb i b).pbits = s.pbits := rfl
@[simp] theorem setCb_pcnt (s : State) (i : Nat) (b : Byte) : (s.setCb i b).pcnt = s.pcnt := rfl
@[simp] theorem setCb_chPoison (s : State) (i : Nat) (b : Byte) : (s.setCb i b).chPoison = s.chPoison := rfl
@[simp] theorem setCb_cb (s : State) (i : Nat) (b : Byte) : (s.setCb i b).cb = s.cb.set i b := rfl
@[simp] theorem setCb_ent (s : State) (i : Nat) (b : Byte) : (s.setCb i b).ent = s.ent := rfl
@[simp] theorem setCb_tsize (s : State) (i : Nat) (b : Byte) : (s.setCb i b).tsize = s.tsize := rfl
@[simp] theorem setCb_tcap (s : State) (i : Nat) (b : Byte) : (s.setCb i b).tcap = s.tcap := rfl
@[simp] theorem setCb_tFatal (s : State) (i : Nat) (b : Byte) : (s.setCb i b).tFatal = s.tFatal := rfl
@[simp] theorem setCb_rStat (s : State) (i : Nat) (b : Byte) : (s.setCb i b).rStat = s.rStat := rfl
@[simp] theorem setCb_rBits (s : State) (i : Nat) (b : Byte) : (s.setCb i b).rBits = s.rBits := rfl
@[simp] theorem setCb_rByte (s : State) (i : Nat) (b : Byte) : (s.setCb i b).rByte = s.rByte := rfl
@[simp] theorem setCb_rVal (s : State) (i : Nat) (b : Byte) : (s.setCb i b).rVal = s.rVal := rfl
@[simp] theorem setCb_rIdx (s : State) (i : Nat) (b : Byte) : (s.setCb i b).rIdx = s.rIdx := rfl
@[simp] theorem setCb_stores (s : State) (i : Nat) (b : Byte) : (s.setCb i b).stores = s.stores := rfl
@[simp] theorem setCb_rsBound (s : State) (i : Nat) (b : Byte) : (s.setCb i b).rsBound = s.rsBound := rfl
@[simp] theorem setCb_wsBound (s : State) (i : Nat) (b : Byte) : (s.setCb i b).wsBound = s.wsBound := rfl
@[simp] theorem setCb_rdAns (s : State) (i : Nat) (b : Byte) : (s.setCb i b).rdAns = s.rdAns := rfl
@[simp] theorem setCb_wrAns (s : State) (i : Nat) (b : Byte) : (s.setCb i b).wrAns = s.wrAns := rfl
@[simp] theorem setCb_hostq (s : State) (i : Nat) (b : Byte) : (s.setCb i b).hostq = s.hostq := rfl
@[simp] theorem setCb_turn (s : State) (i : Nat) (b : Byte) : (s.setCb i b).turn = s.turn := rfl
@[simp] theorem setCb_freeCtr (s : State) (i : Nat) (b : Byte) : (s.setCb i b).freeCtr = s.freeCtr := rfl

/-! ### fillCb -/

@[simp] theorem fillCb_par (s : State) (bs : List Byte) : (s.fillCb bs).par = s.par := rfl
@[simp] theorem fillCb_rpos (s : State) (bs : List Byte) : (s.fillCb bs).rpos = s.rpos := rfl
@[simp] theorem fillCb_pbits (s : State) (bs : List Byte) : (s.fillCb bs).pbits = s.pbits := rfl
@[simp] theorem fillCb_pcnt (s : State) (bs : List Byte) : (s.fillCb bs).pcnt = s.pcnt := rfl
@[simp] theorem fillCb_chPoison (s : State) (bs : List Byte) : (s.fillCb bs).chPoison = s.chPoison := rfl
@[simp] theorem fillCb_cb (s : State) (bs : List Byte) : (s.fillCb bs).cb = (bs ++ s.cb.drop bs.length).take s.cb.length := rfl
@[simp] theorem fillCb_ent (s : State) (bs : List Byte) : (s.fillCb bs).ent = s.ent := rfl
@[simp] theorem fillCb_tsize (s : State) (bs : List Byte) : (s.fillCb bs).tsize = s.tsize := rfl
@[simp] theorem fillCb_tcap (s : State) (bs : List Byte) : (s.fillCb bs).tcap = s.tcap := rfl
@[simp] theorem fillCb_tFatal (s : State) (bs : List Byte) : (s.fillCb bs).tFatal = s.tFatal := rfl
@[simp] theorem fillCb_rStat (s : State) (bs : List Byte) : (s.fillCb bs).rStat = s.rStat := rfl
@[simp] theorem fillCb_rBits (s : State) (bs : List Byte) : (s.fillCb bs).rBits = s.rBits := rfl
@[simp] theorem fillCb_rByte (s : State) (bs : List Byte) : (s.fillCb bs).rByte = s.rByte := rfl
@[simp] theorem fillCb_rVal (s : State) (bs : List Byte) : (s.fillCb bs).rVal = s.rVal := rfl
@[simp] theorem fillCb_rIdx (s : State) (bs : List Byte) : (s.fillCb bs).rIdx = s.rIdx := rfl
@[simp] theorem fillCb_stores (s : State) (bs : List Byte) : (s.fillCb bs).stores = s.stores := rfl
@[simp] theorem fillCb_rsBound (s : State) (bs : List Byte) : (s.fillCb bs).rsBound = s.rsBound := rfl
@[simp] theorem fillCb_wsBound (s : State) (bs : List Byte) : (s.fillCb bs).wsBound = s.wsBound := rfl
@[simp] theorem fillCb_rdAns (s : State) (bs : List Byte) : (s.fillCb bs).rdAns = s.rdAns := rfl
@[simp] theorem fillCb_wrAns (s : State) (bs : List Byte) : (s.fillCb bs).wrAns = s.wrAns := rfl
@[simp] theorem fillCb_hostq (s : State) (bs : List Byte) : (s.fillCb bs).hostq = s.hostq := rfl
@[simp] theorem fillCb_turn (s : State) (bs : List Byte) : (s.fillCb bs).turn = s.turn := rfl
@[simp] theorem fillCb_freeCtr (s : State) (bs : List Byte) : (s.fillCb bs).freeCtr = s.freeCtr := rfl

/-! ### setEntries -/

@[simp] theorem setEntries_par (s : State) (es : List Entry) : (s.setEntries es).par = s.par := rfl
@[simp] theorem setEntries_rpos (s : State) (es : List Entry) : (s.setEntries es).rpos = s.rpos := rfl
@[simp] theorem setEntries_pbits (s : State) (es : List Entry) : (s.setEntries es).pbits = s.pbits := rfl
@[simp] theorem setEntries_pcnt (s : State) (es : List Entry) : (s.setEntries es).pcnt = s.pcnt := rfl
@[simp] theorem setEntries_chPoison (s : State) (es : List Entry) : (s.setEntries es).chPoison = s.chPoison := rfl
@[simp] theorem setEntries_cb (s : State) (es : List Entry) : (s.setEntries es).cb = s.cb := rfl
@[simp] theorem setEntries_ent (s : State) (es : List Entry) : (s.setEntries es).ent = es ++ s.ent.drop es.length := rfl
@[simp] theorem setEntries_tsize (s : State) (es : List Entry) : (s.setEntries es).tsize = BitVec.ofNat 25 es.length := rfl
@[simp] theorem setEntries_tcap (s : State) (es : List Entry) : (s.setEntries es).tcap = s.tcap := rfl
@[simp] theorem setEntries_tFatal (s : State) (es : List Entry) : (s.setEntries es).tFatal = s.tFatal := rfl
@[simp] theorem setEntries_rStat (s : State) (es : List Entry) : (s.setEntries es).rStat = s.rStat := rfl
@[simp] theorem setEntries_rBits (s : State) (es : List Entry) : (s.setEntries es).rBits = s.rBits := rfl
@[simp] theorem setEntries_rByte (s : State) (es : List Entry) : (s.setEntries es).rByte = s.rByte := rfl
@[simp] theorem setEntries_rVal (s : State) (es : List Entry) : (s.setEntries es).rVal = s.rVal := rfl
@[simp] theorem setEntries_rIdx (s : State) (es : List Entry) : (s.setEntries es).rIdx = s.rIdx := rfl
@[simp] theorem setEntries_stores (s : State) (es : List Entry) : (s.setEntries es).stores = s.stores := rfl
@[simp] theorem setEntries_rsBound (s : State) (es : List Entry) : (s.setEntries es).rsBound = s.rsBound := rfl
@[simp] theorem setEntries_wsBound (s : State) (es : List Entry) : (s.setEntries es).wsBound = s.wsBound := rfl
@[simp] theorem setEntries_rdAns (s : State) (es : List Entry) : (s.setEntries es).rdAns = s.rdAns := rfl
@[simp] theorem setEntries_wrAns (s : State) (es : List Entry) : (s.setEntries es).wrAns = s.wrAns := rfl
@[simp] theorem setEntries_hostq (s : State) (es : List Entry) : (s.setEntries es).hostq = s.hostq := rfl
@[simp] theorem setEntries_turn (s : State) (es : List Entry) : (s.setEntries es).turn = s.turn := rfl
@[simp] theorem setEntries_freeCtr (s : State) (es : List Entry) : (s.setEntries es).freeCtr = s.freeCtr := rfl

/-! ### clearChannel -/

@[simp] theorem clearChannel_par (s : State) : (s.clearChannel).par = s.par := rfl
@[simp] theorem clearChannel_rpos (s : State) : (s.clearChannel).rpos = 0 := rfl
@[simp] theorem clearChannel_pbits (s : State) : (s.clearChannel).pbits = 0 := rfl
@[simp] theorem clearChannel_pcnt (s : State) : (s.clearChannel).pcnt = 0 := rfl
@[simp] theorem clearChannel_chPoison (s : State) : (s.clearChannel).chPoison = false := rfl
@[simp] theorem clearChannel_cb (s : State) : (s.clearChannel).cb = s.cb := rfl
@[simp] theorem clearChannel_ent (s : State) : (s.clearChannel).ent = s.ent := rfl
@[simp] theorem clearChannel_tsize (s : State) : (s.clearChannel).tsize = s.tsize := rfl
@[simp] theorem clearChannel_tcap (s : State) : (s.clearChannel).tcap = s.tcap := rfl
@[simp] theorem clearChannel_tFatal (s : State) : (s.clearChannel).tFatal = s.tFatal := rfl
@[simp] theorem clearChannel_rStat (s : State) : (s.clearChannel).rStat = s.rStat := rfl
@[simp] theorem clearChannel_rBits (s : State) : (s.clearChannel).rBits = s.rBits := rfl
@[simp] theorem clearChannel_rByte (s : State) : (s.clearChannel).rByte = s.rByte := rfl
@[simp] theorem clearChannel_rVal (s : State) : (s.clearChannel).rVal = s.rVal := rfl
@[simp] theorem clearChannel_rIdx (s : State) : (s.clearChannel).rIdx = s.rIdx := rfl
@[simp] theorem clearChannel_stores (s : State) : (s.clearChannel).stores = s.stores := rfl
@[simp] theorem clearChannel_rsBound (s : State) : (s.clearChannel).rsBound = s.rsBound := rfl
@[simp] theorem clearChannel_wsBound (s : State) : (s.clearChannel).wsBound = s.wsBound := rfl
@[simp] theorem clearChannel_rdAns (s : State) : (s.clearChannel).rdAns = s.rdAns := rfl
@[simp] theorem clearChannel_wrAns (s : State) : (s.clearChannel).wrAns = s.wrAns := rfl
@[simp] theorem clearChannel_hostq (s : State) : (s.clearChannel).hostq = s.hostq := rfl
@[simp] theorem clearChannel_turn (s : State) : (s.clearChannel).turn = s.turn := rfl
@[simp] theorem clearChannel_freeCtr (s : State) : (s.clearChannel).freeCtr = s.freeCtr := rfl

/-! ### clearTable -/

@[simp] theorem clearTable_par (s : State) : (s.clearTable).par = s.par := rfl
@[simp] theorem clearTable_rpos (s : State) : (s.clearTable).rpos = s.rpos := rfl
@[simp] theorem clearTable_pbits (s : State) : (s.clearTable).pbits = s.pbits := rfl
@[simp] theorem clearTable_pcnt (s : State) : (s.clearTable).pcnt = s.pcnt := rfl
@[simp] theorem clearTable_chPoison (s : State) : (s.clearTable).chPoison = s.chPoison := rfl
@[simp] theorem clearTable_cb (s : State) : (s.clearTable).cb = s.cb := rfl
@[simp] theorem clearTable_ent (s : State) : (s.clearTable).ent = s.ent := rfl
@[simp] theorem clearTable_tsize (s : State) : (s.clearTable).tsize = 0 := rfl
@[simp] theorem clearTable_tcap (s : State) : (s.clearTable).tcap = 1 := rfl
@[simp] theorem clearTable_tFatal (s : State) : (s.clearTable).tFatal = false := rfl
@[simp] theorem clearTable_rStat (s : State) : (s.clearTable).rStat = s.rStat := rfl
@[simp] theorem clearTable_rBits (s : State) : (s.clearTable).rBits = s.rBits := rfl
@[simp] theorem clearTable_rByte (s : State) : (s.clearTable).rByte = s.rByte := rfl
@[simp] theorem clearTable_rVal (s : State) : (s.clearTable).rVal = s.rVal := rfl
@[simp] theorem clearTable_rIdx (s : State) : (s.clearTable).rIdx = s.rIdx := rfl
@[simp] theorem clearTable_stores (s : State) : (s.clearTable).stores = s.stores := rfl
@[simp] theorem clearTable_rsBound (s : State) : (s.clearTable).rsBound = s.rsBound := rfl
@[simp] theorem clearTable_wsBound (s : State) : (s.clearTable).wsBound = s.wsBound := rfl
@[simp] theorem clearTable_rdAns (s : State) : (s.clearTable).rdAns = s.rdAns := rfl
@[simp] theorem clearTable_wrAns (s : State) : (s.clearTable).wrAns = s.wrAns := rfl
@[simp] theorem clearTable_hostq (s : State) : (s.clearTable).hostq = s.hostq := rfl
@[simp] theorem clearTable_turn (s : State) : (s.clearTable).turn = s.turn := rfl
@[simp] theorem clearTable_freeCtr (s : State) : (s.clearTable).freeCtr = s.freeCtr := rfl

/-! ### hardReset -/

@[simp] theorem hardReset_par (s : State) (c : List Byte) : (s.hardReset c).par = s.par := rfl
@[simp] theorem hardReset_rpos (s : State) (c : List Byte) : (s.hardReset c).rpos = 0 := rfl
@[simp] theorem hardReset_pbits (s : State) (c : List Byte) : (s.hardReset c).pbits = 0 := rfl
@[simp] theorem hardReset_pcnt (s : State) (c : List Byte) : (s.hardReset c).pcnt = 0 := rfl
@[simp] theorem hardReset_chPoison (s : State) (c : List Byte) : (s.hardReset c).chPoison = false := rfl
@[simp] theorem hardReset_cb (s : State) (c : List Byte) : (s.hardReset c).cb = c := rfl
@[simp] theorem hardReset_ent (s : State) (c : List Byte) : (s.hardReset c).ent = s.ent := rfl
@[simp] theorem hardReset_tsize (s : State) (c : List Byte) : (s.hardReset c).tsize = 0 := rfl
@[simp] theorem hardReset_tcap (s : State) (c : List Byte) : (s.hardReset c).tcap = 1 := rfl
@[simp] theorem hardReset_tFatal (s : State) (c : List Byte) : (s.hardReset c).tFatal = false := rfl
@[simp] theorem hardReset_rStat (s : State) (c : List Byte) : (s.hardReset c).rStat = 0 := rfl
@[simp] theorem hardReset_rBits (s : State) (c : List Byte) : (s.hardReset c).rBits = 0 := rfl
@[simp] theorem hardReset_rByte (s : State) (c : List Byte) : (s.hardReset c).rByte = 0 := rfl
@[simp] theorem hardReset_rVal (s : State) (c : List Byte) : (s.hardReset c).rVal = 0 := rfl
@[simp] theorem hardReset_rIdx (s : State) (c : List Byte) : (s.hardReset c).rIdx = 0 := rfl
@[simp] theorem hardReset_stores (s : State) (c : List Byte) : (s.hardReset c).stores = s.stores := rfl
@[simp] theorem hardReset_rsBound (s : State) (c : List Byte) : (s.hardReset c).rsBound = s.rsBound := rfl
@[simp] theorem hardReset_wsBound (s : State) (c : List Byte) : (s.hardReset c).wsBound = s.wsBound := rfl
@[simp] theorem hardReset_rdAns (s : State) (c : List Byte) : (s.hardReset c).rdAns = s.rdAns := rfl
@[simp] theorem hardReset_wrAns (s : State) (c : List Byte) : (s.hardReset c).wrAns = s.wrAns := rfl
@[simp] theorem hardReset_hostq (s : State) (c : List Byte) : (s.hardReset c).hostq = s.hostq := rfl
@[simp] theorem hardReset_turn (s : State) (c : List Byte) : (s.hardReset c).turn = .host := rfl
@[simp] theorem hardReset_freeCtr (s : State) (c : List Byte) : (s.hardReset c).freeCtr = s.freeCtr := rfl

/-! ### taken -/

@[simp] theorem taken_par (s : State) (q : List HostEvent) : (s.taken q).par = s.par := rfl
@[simp] theorem taken_rpos (s : State) (q : List HostEvent) : (s.taken q).rpos = s.rpos := rfl
@[simp] theorem taken_pbits (s : State) (q : List HostEvent) : (s.taken q).pbits = s.pbits := rfl
@[simp] theorem taken_pcnt (s : State) (q : List HostEvent) : (s.taken q).pcnt = s.pcnt := rfl
@[simp] theorem taken_chPoison (s : State) (q : List HostEvent) : (s.taken q).chPoison = s.chPoison := rfl
@[simp] theorem taken_cb (s : State) (q : List HostEvent) : (s.taken q).cb = s.cb := rfl
@[simp] theorem taken_ent (s : State) (q : List HostEvent) : (s.taken q).ent = s.ent := rfl
@[simp] theorem taken_tsize (s : State) (q : List HostEvent) : (s.taken q).tsize = s.tsize := rfl
@[simp] theorem taken_tcap (s : State) (q : List HostEvent) : (s.taken q).tcap = s.tcap := rfl
@[simp] theorem taken_tFatal (s : State) (q : List HostEvent) : (s.taken q).tFatal = s.tFatal := rfl
@[simp] theorem taken_rStat (s : State) (q : List HostEvent) : (s.taken q).rStat = s.rStat := rfl
@[simp] theorem taken_rBits (s : State) (q : List HostEvent) : (s.taken q).rBits = s.rBits := rfl
@[simp] theorem taken_rByte (s : State) (q : List HostEvent) : (s.taken q).rByte = s.rByte := rfl
@[simp] theorem taken_rVal (s : State) (q : List HostEvent) : (s.taken q).rVal = s.rVal := rfl
@[simp] theorem taken_rIdx (s : State) (q : List HostEvent) : (s.taken q).rIdx = s.rIdx := rfl
@[simp] theorem taken_stores (s : State) (q : List HostEvent) : (s.taken q).stores = s.stores := rfl
@[simp] theorem taken_rsBound (s : State) (q : List HostEvent) : (s.taken q).rsBound = s.rsBound := rfl
@[simp] theorem taken_wsBound (s : State) (q : List HostEvent) : (s.taken q).wsBound = s.wsBound := rfl
@[simp] theorem taken_rdAns (s : State) (q : List HostEvent) : (s.taken q).rdAns = s.rdAns := rfl
@[simp] theorem taken_wrAns (s : State) (q : List HostEvent) : (s.taken q).wrAns = s.wrAns := rfl
@[simp] theorem taken_hostq (s : State) (q : List HostEvent) : (s.taken q).hostq = q := rfl
@[simp] theorem taken_turn (s : State) (q : List HostEvent) : (s.taken q).turn = s.turn := rfl
@[simp] theorem taken_freeCtr (s : State) (q : List HostEvent) : (s.taken q).freeCtr = s.freeCtr := rfl

/-! ### bound -/

@[simp] theorem bound_par (s : State) (st : Stores) (r w : Bool) : (s.bound st r w).par = s.par := rfl
@[simp] theorem bound_rpos (s : State) (st : Stores) (r w : Bool) : (s.bound st r w).rpos = s.rpos := rfl
@[simp] theorem bound_pbits (s : State) (st : Stores) (r w : Bool) : (s.bound st r w).pbits = s.pbits := rfl
@[simp] theorem bound_pcnt (s : State) (st : Stores) (r w : Bool) : (s.bound st r w).pcnt = s.pcnt := rfl
@[simp] theorem bound_chPoison (s : State) (st : Stores) (r w : Bool) : (s.bound st r w).chPoison = s.chPoison := rfl
@[simp] theorem bound_cb (s : State) (st : Stores) (r w : Bool) : (s.bound st r w).cb = s.cb := rfl
@[simp] theorem bound_ent (s : State) (st : Stores) (r w : Bool) : (s.bound st r w).ent = s.ent := rfl
@[simp] theorem bound_tsize (s : State) (st : Stores) (r w : Bool) : (s.bound st r w).tsize = s.tsize := rfl
@[simp] theorem bound_tcap (s : State) (st : Stores) (r w : Bool) : (s.bound st r w).tcap = s.tcap := rfl
@[simp] theorem bound_tFatal (s : State) (st : Stores) (r w : Bool) : (s.bound st r w).tFatal = s.tFatal := rfl
@[simp] theorem bound_rStat (s : State) (st : Stores) (r w : Bool) : (s.bound st r w).rStat = s.rStat := rfl
@[simp] theorem bound_rBits (s : State) (st : Stores) (r w : Bool) : (s.bound st r w).rBits = s.rBits := rfl
@[simp] theorem bound_rByte (s : State) (st : Stores) (r w : Bool) : (s.bound st r w).rByte = s.rByte := rfl
@[simp] theorem bound_rVal (s : State) (st : Stores) (r w : Bool) : (s.bound st r w).rVal = s.rVal := rfl
@[simp] theorem bound_rIdx (s : State) (st : Stores) (r w : Bool) : (s.bound st r w).rIdx = s.rIdx := rfl
@[simp] theorem bound_stores (s : State) (st : Stores) (r w : Bool) : (s.bound st r w).stores = st := rfl
@[simp] theorem bound_rsBound (s : State) (st : Stores) (r w : Bool) : (s.bound st r w).rsBound = r := rfl
@[simp] theorem bound_wsBound (s : State) (st : Stores) (r w : Bool) : (s.bound st r w).wsBound = w := rfl
@[simp] theorem bound_rdAns (s : State) (st : Stores) (r w : Bool) : (s.bound st r w).rdAns = s.rdAns := rfl
@[simp] theorem bound_wrAns (s : State) (st : Stores) (r w : Bool) : (s.bound st r w).wrAns = s.wrAns := rfl
@[simp] theorem bound_hostq (s : State) (st : Stores) (r w : Bool) : (s.bound st r w).hostq = s.hostq := rfl
@[simp] theorem bound_turn (s : State) (st : Stores) (r w : Bool) : (s.bound st r w).turn = s.turn := rfl
@[simp] theorem bound_freeCtr (s : State) (st : Stores) (r w : Bool) : (s.bound st r w).freeCtr = s.freeCtr := rfl

/-! ### issue -/

@[simp] theorem issue_par (s : State) (c : Word) : (s.issue c).par = s.par := rfl
@[simp] theorem issue_rpos (s : State) (c : Word) : (s.issue c).rpos = s.rpos := rfl
@[simp] theorem issue_pbits (s : State) (c : Word) : (s.issue c).pbits = s.pbits := rfl
@[simp] theorem issue_pcnt (s : State) (c : Word) : (s.issue c).pcnt = s.pcnt := rfl
@[simp] theorem issue_chPoison (s : State) (c : Word) : (s.issue c).chPoison = s.chPoison := rfl
@[simp] theorem issue_cb (s : State) (c : Word) : (s.issue c).cb = s.cb := rfl
@[simp] theorem issue_ent (s : State) (c : Word) : (s.issue c).ent = s.ent := rfl
@[simp] theorem issue_tsize (s : State) (c : Word) : (s.issue c).tsize = s.tsize := rfl
@[simp] theorem issue_tcap (s : State) (c : Word) : (s.issue c).tcap = s.tcap := rfl
@[simp] theorem issue_tFatal (s : State) (c : Word) : (s.issue c).tFatal = s.tFatal := rfl
@[simp] theorem issue_rStat (s : State) (c : Word) : (s.issue c).rStat = s.rStat := rfl
@[simp] theorem issue_rBits (s : State) (c : Word) : (s.issue c).rBits = s.rBits := rfl
@[simp] theorem issue_rByte (s : State) (c : Word) : (s.issue c).rByte = s.rByte := rfl
@[simp] theorem issue_rVal (s : State) (c : Word) : (s.issue c).rVal = s.rVal := rfl
@[simp] theorem issue_rIdx (s : State) (c : Word) : (s.issue c).rIdx = s.rIdx := rfl
@[simp] theorem issue_stores (s : State) (c : Word) : (s.issue c).stores = s.stores := rfl
@[simp] theorem issue_rsBound (s : State) (c : Word) : (s.issue c).rsBound = s.rsBound := rfl
@[simp] theorem issue_wsBound (s : State) (c : Word) : (s.issue c).wsBound = s.wsBound := rfl
@[simp] theorem issue_rdAns (s : State) (c : Word) : (s.issue c).rdAns = s.rdAns := rfl
@[simp] theorem issue_wrAns (s : State) (c : Word) : (s.issue c).wrAns = s.wrAns := rfl
@[simp] theorem issue_hostq (s : State) (c : Word) : (s.issue c).hostq = .cmd c :: s.hostq := rfl
@[simp] theorem issue_turn (s : State) (c : Word) : (s.issue c).turn = .host := rfl
@[simp] theorem issue_freeCtr (s : State) (c : Word) : (s.issue c).freeCtr = s.freeCtr := rfl

/-! ### advance -/

@[simp] theorem advance_par (s : State) (n : Nat) : (s.advance n).par = s.par := rfl
@[simp] theorem advance_rpos (s : State) (n : Nat) : (s.advance n).rpos = s.rpos + BitVec.ofNat 64 n := rfl
@[simp] theorem advance_pbits (s : State) (n : Nat) : (s.advance n).pbits = s.pbits := rfl
@[simp] theorem advance_pcnt (s : State) (n : Nat) : (s.advance n).pcnt = s.pcnt := rfl
@[simp] theorem advance_chPoison (s : State) (n : Nat) : (s.advance n).chPoison = s.chPoison := rfl
@[simp] theorem advance_cb (s : State) (n : Nat) : (s.advance n).cb = s.cb := rfl
@[simp] theorem advance_ent (s : State) (n : Nat) : (s.advance n).ent = s.ent := rfl
@[simp] theorem advance_tsize (s : State) (n : Nat) : (s.advance n).tsize = s.tsize := rfl
@[simp] theorem advance_tcap (s : State) (n : Nat) : (s.advance n).tcap = s.tcap := rfl
@[simp] theorem advance_tFatal (s : State) (n : Nat) : (s.advance n).tFatal = s.tFatal := rfl
@[simp] theorem advance_rStat (s : State) (n : Nat) : (s.advance n).rStat = s.rStat := rfl
@[simp] theorem advance_rBits (s : State) (n : Nat) : (s.advance n).rBits = s.rBits := rfl
@[simp] theorem advance_rByte (s : State) (n : Nat) : (s.advance n).rByte = s.rByte := rfl
@[simp] theorem advance_rVal (s : State) (n : Nat) : (s.advance n).rVal = s.rVal := rfl
@[simp] theorem advance_rIdx (s : State) (n : Nat) : (s.advance n).rIdx = s.rIdx := rfl
@[simp] theorem advance_stores (s : State) (n : Nat) : (s.advance n).stores = s.stores := rfl
@[simp] theorem advance_rsBound (s : State) (n : Nat) : (s.advance n).rsBound = s.rsBound := rfl
@[simp] theorem advance_wsBound (s : State) (n : Nat) : (s.advance n).wsBound = s.wsBound := rfl
@[simp] theorem advance_rdAns (s : State) (n : Nat) : (s.advance n).rdAns = s.rdAns := rfl
@[simp] theorem advance_wrAns (s : State) (n : Nat) : (s.advance n).wrAns = s.wrAns := rfl
@[simp] theorem advance_hostq (s : State) (n : Nat) : (s.advance n).hostq = s.hostq := rfl
@[simp] theorem advance_turn (s : State) (n : Nat) : (s.advance n).turn = s.turn := rfl
@[simp] theorem advance_freeCtr (s : State) (n : Nat) : (s.advance n).freeCtr = s.freeCtr := rfl

/-! ### setPending -/

@[simp] theorem setPending_par (s : State) (b : Byte) (n : Nat) : (s.setPending b n).par = s.par := rfl
@[simp] theorem setPending_rpos (s : State) (b : Byte) (n : Nat) : (s.setPending b n).rpos = s.rpos := rfl
@[simp] theorem setPending_pbits (s : State) (b : Byte) (n : Nat) : (s.setPending b n).pbits = b := rfl
@[simp] theorem setPending_pcnt (s : State) (b : Byte) (n : Nat) : (s.setPending b n).pcnt = BitVec.ofNat 3 n := rfl
@[simp] theorem setPending_chPoison (s : State) (b : Byte) (n : Nat) : (s.setPending b n).chPoison = s.chPoison := rfl
@[simp] theorem setPending_cb (s : State) (b : Byte) (n : Nat) : (s.setPending b n).cb = s.cb := rfl
@[simp] theorem setPending_ent (s : State) (b : Byte) (n : Nat) : (s.setPending b n).ent = s.ent := rfl
@[simp] theorem setPending_tsize (s : State) (b : Byte) (n : Nat) : (s.setPending b n).tsize = s.tsize := rfl
@[simp] theorem setPending_tcap (s : State) (b : Byte) (n : Nat) : (s.setPending b n).tcap = s.tcap := rfl
@[simp] theorem setPending_tFatal (s : State) (b : Byte) (n : Nat) : (s.setPending b n).tFatal = s.tFatal := rfl
@[simp] theorem setPending_rStat (s : State) (b : Byte) (n : Nat) : (s.setPending b n).rStat = s.rStat := rfl
@[simp] theorem setPending_rBits (s : State) (b : Byte) (n : Nat) : (s.setPending b n).rBits = s.rBits := rfl
@[simp] theorem setPending_rByte (s : State) (b : Byte) (n : Nat) : (s.setPending b n).rByte = s.rByte := rfl
@[simp] theorem setPending_rVal (s : State) (b : Byte) (n : Nat) : (s.setPending b n).rVal = s.rVal := rfl
@[simp] theorem setPending_rIdx (s : State) (b : Byte) (n : Nat) : (s.setPending b n).rIdx = s.rIdx := rfl
@[simp] theorem setPending_stores (s : State) (b : Byte) (n : Nat) : (s.setPending b n).stores = s.stores := rfl
@[simp] theorem setPending_rsBound (s : State) (b : Byte) (n : Nat) : (s.setPending b n).rsBound = s.rsBound := rfl
@[simp] theorem setPending_wsBound (s : State) (b : Byte) (n : Nat) : (s.setPending b n).wsBound = s.wsBound := rfl
@[simp] theorem setPending_rdAns (s : State) (b : Byte) (n : Nat) : (s.setPending b n).rdAns = s.rdAns := rfl
@[simp] theorem setPending_wrAns (s : State) (b : Byte) (n : Nat) : (s.setPending b n).wrAns = s.wrAns := rfl
@[simp] theorem setPending_hostq (s : State) (b : Byte) (n : Nat) : (s.setPending b n).hostq = s.hostq := rfl
@[simp] theorem setPending_turn (s : State) (b : Byte) (n : Nat) : (s.setPending b n).turn = s.turn := rfl
@[simp] theorem setPending_freeCtr (s : State) (b : Byte) (n : Nat) : (s.setPending b n).freeCtr = s.freeCtr := rfl

/-! ### rdNext -/

@[simp] theorem rdNext_par (s : State) : (s.rdNext).par = s.par := rfl
@[simp] theorem rdNext_rpos (s : State) : (s.rdNext).rpos = s.rpos := rfl
@[simp] theorem rdNext_pbits (s : State) : (s.rdNext).pbits = s.pbits := rfl
@[simp] theorem rdNext_pcnt (s : State) : (s.rdNext).pcnt = s.pcnt := rfl
@[simp] theorem rdNext_chPoison (s : State) : (s.rdNext).chPoison = s.chPoison := rfl
@[simp] theorem rdNext_cb (s : State) : (s.rdNext).cb = s.cb := rfl
@[simp] theorem rdNext_ent (s : State) : (s.rdNext).ent = s.ent := rfl
@[simp] theorem rdNext_tsize (s : State) : (s.rdNext).tsize = s.tsize := rfl
@[simp] theorem rdNext_tcap (s : State) : (s.rdNext).tcap = s.tcap := rfl
@[simp] theorem rdNext_tFatal (s : State) : (s.rdNext).tFatal = s.tFatal := rfl
@[simp] theorem rdNext_rStat (s : State) : (s.rdNext).rStat = s.rStat := rfl
@[simp] theorem rdNext_rBits (s : State) : (s.rdNext).rBits = s.rBits := rfl
@[simp] theorem rdNext_rByte (s : State) : (s.rdNext).rByte = s.rByte := rfl
@[simp] theorem rdNext_rVal (s : State) : (s.rdNext).rVal = s.rVal := rfl
@[simp] theorem rdNext_rIdx (s : State) : (s.rdNext).rIdx = s.rIdx := rfl
@[simp] theorem rdNext_rsBound (s : State) : (s.rdNext).rsBound = s.rsBound := rfl
@[simp] theorem rdNext_wsBound (s : State) : (s.rdNext).wsBound = s.wsBound := rfl
@[simp] theorem rdNext_rdAns (s : State) : (s.rdNext).rdAns = s.rdAns.tail := rfl
@[simp] theorem rdNext_wrAns (s : State) : (s.rdNext).wrAns = s.wrAns := rfl
@[simp] theorem rdNext_hostq (s : State) : (s.rdNext).hostq = s.hostq := rfl
@[simp] theorem rdNext_turn (s : State) : (s.rdNext).turn = s.turn := rfl
@[simp] theorem rdNext_freeCtr (s : State) : (s.rdNext).freeCtr = s.freeCtr := rfl

/-! ### wrNext -/

@[simp] theorem wrNext_par (s : State) : (s.wrNext).par = s.par := rfl
@[simp] theorem wrNext_rpos (s : State) : (s.wrNext).rpos = s.rpos := rfl
@[simp] theorem wrNext_pbits (s : State) : (s.wrNext).pbits = s.pbits := rfl
@[simp] theorem wrNext_pcnt (s : State) : (s.wrNext).pcnt = s.pcnt := rfl
@[simp] theorem wrNext_chPoison (s : State) : (s.wrNext).chPoison = s.chPoison := rfl
@[simp] theorem wrNext_cb (s : State) : (s.wrNext).cb = s.cb := rfl
@[simp] theorem wrNext_ent (s : State) : (s.wrNext).ent = s.ent := rfl
@[simp] theorem wrNext_tsize (s : State) : (s.wrNext).tsize = s.tsize := rfl
@[simp] theorem wrNext_tcap (s : State) : (s.wrNext).tcap = s.tcap := rfl
@[simp] theorem wrNext_tFatal (s : State) : (s.wrNext).tFatal = s.tFatal := rfl
@[simp] theorem wrNext_rStat (s : State) : (s.wrNext).rStat = s.rStat := rfl
@[simp] theorem wrNext_rBits (s : State) : (s.wrNext).rBits = s.rBits := rfl
@[simp] theorem wrNext_rByte (s : State) : (s.wrNext).rByte = s.rByte := rfl
@[simp] theorem wrNext_rVal (s : State) : (s.wrNext).rVal = s.rVal := rfl
@[simp] theorem wrNext_rIdx (s : State) : (s.wrNext).rIdx = s.rIdx := rfl
@[simp] theorem wrNext_stores (s : State) : (s.wrNext).stores = s.stores := rfl
@[simp] theorem wrNext_rsBound (s : State) : (s.wrNext).rsBound = s.rsBound := rfl
@[simp] theorem wrNext_wsBound (s : State) : (s.wrNext).wsBound = s.wsBound := rfl
@[simp] theorem wrNext_rdAns (s : State) : (s.wrNext).rdAns = s.rdAns := rfl
@[simp] theorem wrNext_wrAns (s : State) : (s.wrNext).wrAns = s.wrAns.tail := rfl
@[simp] theorem wrNext_hostq (s : State) : (s.wrNext).hostq = s.hostq := rfl
@[simp] theorem wrNext_turn (s : State) : (s.wrNext).turn = s.turn := rfl
@[simp] theorem wrNext_freeCtr (s : State) : (s.wrNext).freeCtr = s.freeCtr := rfl

/-! ### land -/

@[simp] theorem land_par (s : State) (l : Bool) (b : Byte) : (s.land l b).par = s.par := rfl
@[simp] theorem land_rpos (s : State) (l : Bool) (b : Byte) : (s.land l b).rpos = s.rpos := rfl
@[simp] theorem land_pbits (s : State) (l : Bool) (b : Byte) : (s.land l b).pbits = s.pbits := rfl
@[simp] theorem land_pcnt (s : State) (l : Bool) (b : Byte) : (s.land l b).pcnt = s.pcnt := rfl
@[simp] theorem land_chPoison (s : State) (l : Bool) (b : Byte) : (s.land l b).chPoison = s.chPoison := rfl
@[simp] theorem land_cb (s : State) (l : Bool) (b : Byte) : (s.land l b).cb = s.cb := rfl
@[simp] theorem land_ent (s : State) (l : Bool) (b : Byte) : (s.land l b).ent = s.ent := rfl
@[simp] theorem land_tsize (s : State) (l : Bool) (b : Byte) : (s.land l b).tsize = s.tsize := rfl
@[simp] theorem land_tcap (s : State) (l : Bool) (b : Byte) : (s.land l b).tcap = s.tcap := rfl
@[simp] theorem land_tFatal (s : State) (l : Bool) (b : Byte) : (s.land l b).tFatal = s.tFatal := rfl
@[simp] theorem land_rStat (s : State) (l : Bool) (b : Byte) : (s.land l b).rStat = s.rStat := rfl
@[simp] theorem land_rBits (s : State) (l : Bool) (b : Byte) : (s.land l b).rBits = s.rBits := rfl
@[simp] theorem land_rByte (s : State) (l : Bool) (b : Byte) : (s.land l b).rByte = s.rByte := rfl
@[simp] theorem land_rVal (s : State) (l : Bool) (b : Byte) : (s.land l b).rVal = s.rVal := rfl
@[simp] theorem land_rIdx (s : State) (l : Bool) (b : Byte) : (s.land l b).rIdx = s.rIdx := rfl
@[simp] theorem land_stores (s : State) (l : Bool) (b : Byte) : (s.land l b).stores = if l then s.stores.append b else s.stores := rfl
@[simp] theorem land_rsBound (s : State) (l : Bool) (b : Byte) : (s.land l b).rsBound = s.rsBound := rfl
@[simp] theorem land_wsBound (s : State) (l : Bool) (b : Byte) : (s.land l b).wsBound = s.wsBound := rfl
@[simp] theorem land_rdAns (s : State) (l : Bool) (b : Byte) : (s.land l b).rdAns = s.rdAns := rfl
@[simp] theorem land_wrAns (s : State) (l : Bool) (b : Byte) : (s.land l b).wrAns = s.wrAns := rfl
@[simp] theorem land_hostq (s : State) (l : Bool) (b : Byte) : (s.land l b).hostq = s.hostq := rfl
@[simp] theorem land_turn (s : State) (l : Bool) (b : Byte) : (s.land l b).turn = s.turn := rfl
@[simp] theorem land_freeCtr (s : State) (l : Bool) (b : Byte) : (s.land l b).freeCtr = s.freeCtr := rfl

/-! ### srDrawn -/

@[simp] theorem srDrawn_par (s : State) (k : Nat) : (s.srDrawn k).par = s.par := by
  unfold State.srDrawn; split <;> rfl
@[simp] theorem srDrawn_rpos (s : State) (k : Nat) : (s.srDrawn k).rpos = s.rpos := by
  unfold State.srDrawn; split <;> rfl
@[simp] theorem srDrawn_pbits (s : State) (k : Nat) : (s.srDrawn k).pbits = s.pbits := by
  unfold State.srDrawn; split <;> rfl
@[simp] theorem srDrawn_pcnt (s : State) (k : Nat) : (s.srDrawn k).pcnt = s.pcnt := by
  unfold State.srDrawn; split <;> rfl
@[simp] theorem srDrawn_chPoison (s : State) (k : Nat) : (s.srDrawn k).chPoison = s.chPoison := by
  unfold State.srDrawn; split <;> rfl
@[simp] theorem srDrawn_cb (s : State) (k : Nat) : (s.srDrawn k).cb = s.cb := by
  unfold State.srDrawn; split <;> rfl
@[simp] theorem srDrawn_ent (s : State) (k : Nat) : (s.srDrawn k).ent = s.ent := by
  unfold State.srDrawn; split <;> rfl
@[simp] theorem srDrawn_tsize (s : State) (k : Nat) : (s.srDrawn k).tsize = s.tsize := by
  unfold State.srDrawn; split <;> rfl
@[simp] theorem srDrawn_tcap (s : State) (k : Nat) : (s.srDrawn k).tcap = s.tcap := by
  unfold State.srDrawn; split <;> rfl
@[simp] theorem srDrawn_tFatal (s : State) (k : Nat) : (s.srDrawn k).tFatal = s.tFatal := by
  unfold State.srDrawn; split <;> rfl
@[simp] theorem srDrawn_rStat (s : State) (k : Nat) : (s.srDrawn k).rStat = s.rStat := by
  unfold State.srDrawn; split <;> rfl
@[simp] theorem srDrawn_rBits (s : State) (k : Nat) : (s.srDrawn k).rBits = s.rBits := by
  unfold State.srDrawn; split <;> rfl
@[simp] theorem srDrawn_rByte (s : State) (k : Nat) : (s.srDrawn k).rByte = s.rByte := by
  unfold State.srDrawn; split <;> rfl
@[simp] theorem srDrawn_rVal (s : State) (k : Nat) : (s.srDrawn k).rVal = s.rVal := by
  unfold State.srDrawn; split <;> rfl
@[simp] theorem srDrawn_rIdx (s : State) (k : Nat) : (s.srDrawn k).rIdx = s.rIdx := by
  unfold State.srDrawn; split <;> rfl
@[simp] theorem srDrawn_stores (s : State) (k : Nat) : (s.srDrawn k).stores = s.stores := by
  unfold State.srDrawn; split <;> rfl
@[simp] theorem srDrawn_rsBound (s : State) (k : Nat) : (s.srDrawn k).rsBound = s.rsBound := by
  unfold State.srDrawn; split <;> rfl
@[simp] theorem srDrawn_wsBound (s : State) (k : Nat) : (s.srDrawn k).wsBound = s.wsBound := by
  unfold State.srDrawn; split <;> rfl
@[simp] theorem srDrawn_rdAns (s : State) (k : Nat) : (s.srDrawn k).rdAns = s.rdAns := by
  unfold State.srDrawn; split <;> rfl
@[simp] theorem srDrawn_wrAns (s : State) (k : Nat) : (s.srDrawn k).wrAns = s.wrAns := by
  unfold State.srDrawn; split <;> rfl
@[simp] theorem srDrawn_hostq (s : State) (k : Nat) : (s.srDrawn k).hostq = s.hostq := by
  unfold State.srDrawn; split <;> rfl
@[simp] theorem srDrawn_turn (s : State) (k : Nat) : (s.srDrawn k).turn = s.turn := by
  unfold State.srDrawn; split <;> rfl
@[simp] theorem srDrawn_freeCtr (s : State) (k : Nat) : (s.srDrawn k).freeCtr = if srIsFree s k then s.freeCtr + 1 else s.freeCtr := by
  unfold State.srDrawn; split <;> simp_all

/-! ### grow -/

@[simp] theorem grow_par (s : State) : (s.grow).par = s.par := by
  unfold State.grow; split <;> rfl
@[simp] theorem grow_rpos (s : State) : (s.grow).rpos = s.rpos := by
  unfold State.grow; split <;> rfl
@[simp] theorem grow_pbits (s : State) : (s.grow).pbits = s.pbits := by
  unfold State.grow; split <;> rfl
@[simp] theorem grow_pcnt (s : State) : (s.grow).pcnt = s.pcnt := by
  unfold State.grow; split <;> rfl
@[simp] theorem grow_chPoison (s : State) : (s.grow).chPoison = s.chPoison := by
  unfold State.grow; split <;> rfl
@[simp] theorem grow_cb (s : State) : (s.grow).cb = s.cb := by
  unfold State.grow; split <;> rfl
@[simp] theorem grow_ent (s : State) : (s.grow).ent = s.ent := by
  unfold State.grow; split <;> rfl
@[simp] theorem grow_tsize (s : State) : (s.grow).tsize = s.tsize := by
  unfold State.grow; split <;> rfl
@[simp] theorem grow_tcap (s : State) : (s.grow).tcap = if s.tsize = s.tcap then BitVec.ofNat 25 (2 * s.tcap.toNat) else s.tcap := by
  unfold State.grow; split <;> simp_all
@[simp] theorem grow_tFatal (s : State) : (s.grow).tFatal = s.tFatal := by
  unfold State.grow; split <;> rfl
@[simp] theorem grow_rStat (s : State) : (s.grow).rStat = s.rStat := by
  unfold State.grow; split <;> rfl
@[simp] theorem grow_rBits (s : State) : (s.grow).rBits = s.rBits := by
  unfold State.grow; split <;> rfl
@[simp] theorem grow_rByte (s : State) : (s.grow).rByte = s.rByte := by
  unfold State.grow; split <;> rfl
@[simp] theorem grow_rVal (s : State) : (s.grow).rVal = s.rVal := by
  unfold State.grow; split <;> rfl
@[simp] theorem grow_rIdx (s : State) : (s.grow).rIdx = s.rIdx := by
  unfold State.grow; split <;> rfl
@[simp] theorem grow_stores (s : State) : (s.grow).stores = s.stores := by
  unfold State.grow; split <;> rfl
@[simp] theorem grow_rsBound (s : State) : (s.grow).rsBound = s.rsBound := by
  unfold State.grow; split <;> rfl
@[simp] theorem grow_wsBound (s : State) : (s.grow).wsBound = s.wsBound := by
  unfold State.grow; split <;> rfl
@[simp] theorem grow_rdAns (s : State) : (s.grow).rdAns = s.rdAns := by
  unfold State.grow; split <;> rfl
@[simp] theorem grow_wrAns (s : State) : (s.grow).wrAns = s.wrAns := by
  unfold State.grow; split <;> rfl
@[simp] theorem grow_hostq (s : State) : (s.grow).hostq = s.hostq := by
  unfold State.grow; split <;> rfl
@[simp] theorem grow_turn (s : State) : (s.grow).turn = s.turn := by
  unfold State.grow; split <;> rfl
@[simp] theorem grow_freeCtr (s : State) : (s.grow).freeCtr = s.freeCtr := by
  unfold State.grow; split <;> rfl

/-! ### Updates that are `respond` in disguise -/

@[simp] theorem reject_eq (s : State) (st : Status) : s.reject st = s.respond st 0 0 0 0 := rfl
@[simp] theorem illegal_eq (s : State) : s.illegal = s.respond .illegalCommand 0 0 0 0 := rfl
@[simp] theorem failIo_eq (s : State) (n : Nat) : s.failIo n = s.respond .ioFailure n 0 0 0 := rfl
@[simp] theorem failTable_eq (s : State) : s.failTable = s.fatal.respond .resourceExhausted 0 0 0 0 := rfl

/-! ### The table's views depend on `ent` and `tsize` alone -/

theorem slot_of_ent {s t : State} (h : t.ent = s.ent) (i : Nat) : t.slot i = s.slot i := by
  simp only [State.slot, h]

theorem entries_of_ent {s t : State} (h : t.ent = s.ent) (hn : t.tsize = s.tsize) : t.entries = s.entries := by
  simp only [State.entries, hn]
  exact List.map_congr_left fun i _ => slot_of_ent h i

@[simp] theorem poison_slot (s : State) (j : Nat) : (s.poison).slot j = s.slot j :=
  slot_of_ent (by simp) j
@[simp] theorem poison_entries (s : State) : (s.poison).entries = s.entries :=
  entries_of_ent (by simp) (by simp)
@[simp] theorem fatal_slot (s : State) (j : Nat) : (s.fatal).slot j = s.slot j :=
  slot_of_ent (by simp) j
@[simp] theorem fatal_entries (s : State) : (s.fatal).entries = s.entries :=
  entries_of_ent (by simp) (by simp)
@[simp] theorem respond_slot (s : State) (st : Status) (n : Nat) (b : Byte) (v : BitVec 32) (i : Nat) (j : Nat) : (s.respond st n b v i).slot j = s.slot j :=
  slot_of_ent (by simp) j
@[simp] theorem respond_entries (s : State) (st : Status) (n : Nat) (b : Byte) (v : BitVec 32) (i : Nat) : (s.respond st n b v i).entries = s.entries :=
  entries_of_ent (by simp) (by simp)
@[simp] theorem waitFor_slot (s : State) (a : Agent) (j : Nat) : (s.waitFor a).slot j = s.slot j :=
  slot_of_ent (by simp) j
@[simp] theorem waitFor_entries (s : State) (a : Agent) : (s.waitFor a).entries = s.entries :=
  entries_of_ent (by simp) (by simp)
@[simp] theorem setCb_slot (s : State) (i : Nat) (b : Byte) (j : Nat) : (s.setCb i b).slot j = s.slot j :=
  slot_of_ent (by simp) j
@[simp] theorem setCb_entries (s : State) (i : Nat) (b : Byte) : (s.setCb i b).entries = s.entries :=
  entries_of_ent (by simp) (by simp)
@[simp] theorem fillCb_slot (s : State) (bs : List Byte) (j : Nat) : (s.fillCb bs).slot j = s.slot j :=
  slot_of_ent (by simp) j
@[simp] theorem fillCb_entries (s : State) (bs : List Byte) : (s.fillCb bs).entries = s.entries :=
  entries_of_ent (by simp) (by simp)
@[simp] theorem clearChannel_slot (s : State) (j : Nat) : (s.clearChannel).slot j = s.slot j :=
  slot_of_ent (by simp) j
@[simp] theorem clearChannel_entries (s : State) : (s.clearChannel).entries = s.entries :=
  entries_of_ent (by simp) (by simp)
@[simp] theorem taken_slot (s : State) (q : List HostEvent) (j : Nat) : (s.taken q).slot j = s.slot j :=
  slot_of_ent (by simp) j
@[simp] theorem taken_entries (s : State) (q : List HostEvent) : (s.taken q).entries = s.entries :=
  entries_of_ent (by simp) (by simp)
@[simp] theorem bound_slot (s : State) (st : Stores) (r w : Bool) (j : Nat) : (s.bound st r w).slot j = s.slot j :=
  slot_of_ent (by simp) j
@[simp] theorem bound_entries (s : State) (st : Stores) (r w : Bool) : (s.bound st r w).entries = s.entries :=
  entries_of_ent (by simp) (by simp)
@[simp] theorem issue_slot (s : State) (c : Word) (j : Nat) : (s.issue c).slot j = s.slot j :=
  slot_of_ent (by simp) j
@[simp] theorem issue_entries (s : State) (c : Word) : (s.issue c).entries = s.entries :=
  entries_of_ent (by simp) (by simp)
@[simp] theorem advance_slot (s : State) (n : Nat) (j : Nat) : (s.advance n).slot j = s.slot j :=
  slot_of_ent (by simp) j
@[simp] theorem advance_entries (s : State) (n : Nat) : (s.advance n).entries = s.entries :=
  entries_of_ent (by simp) (by simp)
@[simp] theorem setPending_slot (s : State) (b : Byte) (n : Nat) (j : Nat) : (s.setPending b n).slot j = s.slot j :=
  slot_of_ent (by simp) j
@[simp] theorem setPending_entries (s : State) (b : Byte) (n : Nat) : (s.setPending b n).entries = s.entries :=
  entries_of_ent (by simp) (by simp)
@[simp] theorem rdNext_slot (s : State) (j : Nat) : (s.rdNext).slot j = s.slot j :=
  slot_of_ent (by simp) j
@[simp] theorem rdNext_entries (s : State) : (s.rdNext).entries = s.entries :=
  entries_of_ent (by simp) (by simp)
@[simp] theorem wrNext_slot (s : State) (j : Nat) : (s.wrNext).slot j = s.slot j :=
  slot_of_ent (by simp) j
@[simp] theorem wrNext_entries (s : State) : (s.wrNext).entries = s.entries :=
  entries_of_ent (by simp) (by simp)
@[simp] theorem land_slot (s : State) (l : Bool) (b : Byte) (j : Nat) : (s.land l b).slot j = s.slot j :=
  slot_of_ent (by simp) j
@[simp] theorem land_entries (s : State) (l : Bool) (b : Byte) : (s.land l b).entries = s.entries :=
  entries_of_ent (by simp) (by simp)
@[simp] theorem srDrawn_slot (s : State) (k : Nat) (j : Nat) : (s.srDrawn k).slot j = s.slot j :=
  slot_of_ent (by simp) j
@[simp] theorem srDrawn_entries (s : State) (k : Nat) : (s.srDrawn k).entries = s.entries :=
  entries_of_ent (by simp) (by simp)
@[simp] theorem grow_slot (s : State) (j : Nat) : (s.grow).slot j = s.slot j :=
  slot_of_ent (by simp) j
@[simp] theorem grow_entries (s : State) : (s.grow).entries = s.entries :=
  entries_of_ent (by simp) (by simp)

/-! ### What the read port reaches depends on `stores` and `rsBound` alone -/

theorem rs_of_stores {s t : State} (h : t.stores = s.stores) (hb : t.rsBound = s.rsBound) : t.rs = s.rs := by
  simp only [State.rs, h, hb]

@[simp] theorem poison_rs (s : State) : (s.poison).rs = s.rs :=
  rs_of_stores (by simp) (by simp)
@[simp] theorem fatal_rs (s : State) : (s.fatal).rs = s.rs :=
  rs_of_stores (by simp) (by simp)
@[simp] theorem respond_rs (s : State) (st : Status) (n : Nat) (b : Byte) (v : BitVec 32) (i : Nat) : (s.respond st n b v i).rs = s.rs :=
  rs_of_stores (by simp) (by simp)
@[simp] theorem waitFor_rs (s : State) (a : Agent) : (s.waitFor a).rs = s.rs :=
  rs_of_stores (by simp) (by simp)
@[simp] theorem setCb_rs (s : State) (i : Nat) (b : Byte) : (s.setCb i b).rs = s.rs :=
  rs_of_stores (by simp) (by simp)
@[simp] theorem fillCb_rs (s : State) (bs : List Byte) : (s.fillCb bs).rs = s.rs :=
  rs_of_stores (by simp) (by simp)
@[simp] theorem setEntries_rs (s : State) (es : List Entry) : (s.setEntries es).rs = s.rs :=
  rs_of_stores (by simp) (by simp)
@[simp] theorem clearChannel_rs (s : State) : (s.clearChannel).rs = s.rs :=
  rs_of_stores (by simp) (by simp)
@[simp] theorem clearTable_rs (s : State) : (s.clearTable).rs = s.rs :=
  rs_of_stores (by simp) (by simp)
@[simp] theorem hardReset_rs (s : State) (c : List Byte) : (s.hardReset c).rs = s.rs :=
  rs_of_stores (by simp) (by simp)
@[simp] theorem taken_rs (s : State) (q : List HostEvent) : (s.taken q).rs = s.rs :=
  rs_of_stores (by simp) (by simp)
@[simp] theorem issue_rs (s : State) (c : Word) : (s.issue c).rs = s.rs :=
  rs_of_stores (by simp) (by simp)
@[simp] theorem advance_rs (s : State) (n : Nat) : (s.advance n).rs = s.rs :=
  rs_of_stores (by simp) (by simp)
@[simp] theorem setPending_rs (s : State) (b : Byte) (n : Nat) : (s.setPending b n).rs = s.rs :=
  rs_of_stores (by simp) (by simp)
@[simp] theorem wrNext_rs (s : State) : (s.wrNext).rs = s.rs :=
  rs_of_stores (by simp) (by simp)
@[simp] theorem srDrawn_rs (s : State) (k : Nat) : (s.srDrawn k).rs = s.rs :=
  rs_of_stores (by simp) (by simp)
@[simp] theorem grow_rs (s : State) : (s.grow).rs = s.rs :=
  rs_of_stores (by simp) (by simp)

@[simp] theorem entries_length (s : State) : s.entries.length = s.tsize.toNat := by simp [State.entries]

theorem entries_getElem (s : State) (i : Nat) (h : i < s.entries.length) : s.entries[i] = s.slot i := by
  simp [State.entries]

/-- Writing a table of a size that TSIZE can hold makes it the table. -/
theorem setEntries_entries (s : State) (es : List Entry) (h : es.length < 2 ^ 25) : (s.setEntries es).entries = es := by
  apply List.ext_getElem
  · simp; omega
  · intro i h1 h2
    simp [State.entries, State.slot, List.getD_eq_getElem?_getD, List.getElem?_append_left h2, List.getElem?_eq_getElem h2]

end Sys2Proof.Machine
end

