-- ==== Sys2Proof/Laws/Ops.lean ====
section
/-! SUPPORT. One lemma per shared operation that says everything it can do, so that no later proof unfolds it. -/

namespace Sys2Proof.Machine

/-! ### The ports -/

/-- A read consumes the next answer and changes nothing else. -/
@[simp] theorem storeRead_state (a n : Nat) (s : State) : (storeRead a n s).2 = s.rdNext := by
  unfold storeRead
  split <;> rfl

/-- An append consumes the next answer, and the byte lands or not. -/
theorem storeAppend_state (b : Byte) (s : State) : ∃ l, (storeAppend b s).2 = s.wrNext.land l b := by
  unfold storeAppend
  split <;> exact ⟨_, rfl⟩

/-- What the WS responder can answer: on a port that can take the byte the listed answer, else `err` without the byte or,
where the port is bound and the listed answer is none, none (R66, R223, R236, R61). -/
theorem appendAnswer_cases (s : State) (i : Nat) :
    (s.canTake (i + 1) ∧ s.appendAnswer i = s.wrAns.getD i .ok) ∨
    (¬ s.canTake (i + 1) ∧ (s.appendAnswer i = .err false ∨ (s.wsBound = true ∧ s.appendAnswer i = .silent false ∧
      ∃ l, s.wrAns.getD i .ok = .silent l))) := by
  unfold State.appendAnswer
  by_cases hb : s.wsBound = true
  · by_cases hr : s.stores.hasRoom (i + 1) = true
    · exact .inl ⟨fun _ => ⟨hb, hr⟩, by simp [hb, hr]⟩
    · refine .inr ⟨fun hc => hr (hc (Nat.succ_pos i)).2, ?_⟩
      cases ha : s.wrAns.getD i .ok <;> simp [hb, hr, AppendAnswer.withoutRoom]
  · exact .inr ⟨fun hc => hb (hc (Nat.succ_pos i)).1, by simp [hb]⟩

/-- A byte taken leaves the later answers where they are in the count. -/
theorem appendAnswer_taken (s : State) (b : Byte) (i : Nat) :
    (s.wrNext.land true b).appendAnswer i = s.appendAnswer (i + 1) := by
  have h2 : (s.stores.append b).hasRoom (i + 1) = s.stores.hasRoom (i + 1 + 1) := by
    simp only [Stores.hasRoom, stores_append_alias, stores_append_ws, append_len]
    congr 2
    rw [Nat.add_assoc, Nat.add_comm 1]
  simp [State.appendAnswer, h2]

/-- A byte lands only on a port that can take it. -/
theorem canTake_of_lands {s : State} (h : s.nextAppend = .ok ∨ s.nextAppend = .err true ∨ s.nextAppend = .silent true) :
    s.canTake 1 := by
  rcases appendAnswer_cases s 0 with ⟨hc, _⟩ | ⟨_, e | ⟨_, e, _⟩⟩
  · exact hc
  all_goals simp [State.nextAppend, e] at h

/-! ### The channel's internal functions -/

/-- Everything `readBits` can do (R112). -/
theorem readBits_cases (count : Nat) (s : State) :
    (s.cursorOverflows count = true ∧ readBits count s = (.got 0 0 .ioFailure, s.poison)) ∨
    (s.cursorOverflows count = false ∧ s.nextRead = .err ∧
      readBits count s = (.got 0 0 .ioFailure, s.rdNext.poison)) ∨
    (s.cursorOverflows count = false ∧ s.nextRead = .silent ∧
      readBits count s = (.silent, s.rdNext)) ∨
    (s.cursorOverflows count = false ∧ (s.nextRead ≠ .err ∧ s.nextRead ≠ .silent) ∧ ∃ k d0 d1,
      k = min (fetchSize s.rposBit) (s.rdNext.rs.len - s.rposByte) ∧
      d0 = (s.rdNext.rs.read? s.rposByte).getD 0 ∧ d1 = (s.rdNext.rs.read? (s.rposByte + 1)).getD 0 ∧
      readBits count s =
        (.got (min count (availBits k s.rposBit))
          (readShift k d0 d1 s.rposBit &&& himask (min count (availBits k s.rposBit)))
          (readStatus count (min count (availBits k s.rposBit))),
         s.rdNext.advance (min count (availBits k s.rposBit)))) := by
  by_cases ho : s.cursorOverflows count = true
  · exact .inl ⟨ho, by simp [readBits, ho]⟩
  · have hf : s.cursorOverflows count = false := by simpa using ho
    refine .inr ?_
    cases hh : s.nextRead with
    | err => exact .inl ⟨hf, rfl, by simp [readBits, hf, storeRead, hh]⟩
    | silent => exact .inr (.inl ⟨hf, rfl, by simp [readBits, hf, storeRead, hh]⟩)
    | ok => exact .inr (.inr ⟨hf, by simp, _, _, _, rfl, rfl, rfl, by simp [readBits, hf, storeRead, hh]⟩)
    | okAfter rs => exact .inr (.inr ⟨hf, by simp, _, _, _, rfl, rfl, rfl, by simp [readBits, hf, storeRead, hh]⟩)

/-- Everything `writeBits` can do (R117). -/
theorem writeBits_cases (count : Nat) (data : Byte) (s : State) :
    (s.pcnt.toNat + count < 8 ∧ writeBits count data s =
      (.sent 0 .ok, s.setPending ((writeShift s.pbits s.pcnt.toNat count data).extractLsb' 8 8) (s.pcnt.toNat + count))) ∨
    (8 ≤ s.pcnt.toNat + count ∧ s.nextAppend = .ok ∧ writeBits count data s =
      (.sent 8 .ok, (s.wrNext.land true ((writeShift s.pbits s.pcnt.toNat count data).extractLsb' 8 8)).setPending
        ((writeShift s.pbits s.pcnt.toNat count data).extractLsb' 0 8) (s.pcnt.toNat + count - 8))) ∨
    (8 ≤ s.pcnt.toNat + count ∧ ∃ l, s.nextAppend = .err l ∧ writeBits count data s =
      (.sent 0 .ioFailure, (s.wrNext.land l ((writeShift s.pbits s.pcnt.toNat count data).extractLsb' 8 8)).poison)) ∨
    (8 ≤ s.pcnt.toNat + count ∧ ∃ l, s.nextAppend = .silent l ∧ writeBits count data s =
      (.silent, s.wrNext.land l ((writeShift s.pbits s.pcnt.toNat count data).extractLsb' 8 8))) := by
  by_cases h : 8 ≤ s.pcnt.toNat + count
  · refine .inr ?_
    cases hn : s.nextAppend with
    | ok => exact .inl ⟨h, rfl, by simp only [writeBits, if_pos h, storeAppend, hn]⟩
    | err l => exact .inr (.inl ⟨h, l, rfl, by simp only [writeBits, if_pos h, storeAppend, hn]⟩)
    | silent l => exact .inr (.inr ⟨h, l, rfl, by simp only [writeBits, if_pos h, storeAppend, hn]⟩)
  · exact .inl ⟨by omega, by simp only [writeBits, if_neg h]⟩

/-! ### Frames of the internal functions -/

theorem SameResponse.refl (s : State) : SameResponse s s := ⟨rfl, rfl, rfl, rfl, rfl⟩

theorem SameResponse.trans {s t u : State} (h : SameResponse s t) (h' : SameResponse t u) : SameResponse s u :=
  ⟨h'.stat.trans h.stat, h'.bits.trans h.bits, h'.byte.trans h.byte, h'.val.trans h.val, h'.idx.trans h.idx⟩

@[simp] theorem storesAfter_zero (s : State) : s.storesAfter 0 = s.stores := by simp [State.storesAfter]

/-- The answers given at once and in two parts leave the same stores. -/
theorem storesAfter_add {s t : State} {k : Nat} (m : Nat) (hb : t.rsBound = s.rsBound) (ha : t.rdAns = s.rdAns.drop k)
    (hs : t.stores = s.storesAfter k) : t.storesAfter m = s.storesAfter (k + m) := by
  unfold State.storesAfter at *
  rw [hb, ha, hs]
  split
  · rw [List.take_add, List.foldl_append]
  · rfl

/-- While no other party changes RS the stores stand still (R61, R72). -/
theorem storesAfter_still {s : State} {k : Nat} (h : s.rsStill k) : s.storesAfter k = s.stores := by
  have key : ∀ (l : List ReadAnswer) (st : Stores), (∀ a ∈ l, a.changesRs = false) →
      l.foldl (fun st a => st.seenAt a) st = st := by
    intro l
    induction l with
    | nil => exact fun _ _ => rfl
    | cons a l ih =>
      intro st hl
      rw [List.foldl_cons, ih _ fun x hx => hl x (List.mem_cons_of_mem _ hx)]
      have ha := hl a (List.mem_cons_self ..)
      cases a <;> first | rfl | simp [ReadAnswer.changesRs] at ha
  unfold State.storesAfter
  split
  · exact key _ _ h
  · rfl

theorem ReadFrame.refl (s : State) : ReadFrame 0 s s :=
  ⟨rfl, rfl, rfl, rfl, rfl, fun _ => rfl, rfl, rfl, rfl, ⟨0, Nat.le_refl _, rfl, (storesAfter_zero s).symm⟩, rfl, rfl,
    fun _ => ⟨rfl, rfl⟩⟩

theorem ReadFrame.mono {n m : Nat} {s t : State} (h : ReadFrame n s t) (hm : n ≤ m) : ReadFrame m s t :=
  let ⟨k, hk, e⟩ := h.answers
  { h with answers := ⟨k, Nat.le_trans hk hm, e⟩ }

/-- One answer of the read port is all a read takes from the environment. -/
theorem rdNext_readFrame (s : State) : ReadFrame 1 s s.rdNext where
  par := rfl
  ent := rfl
  tsize := rfl
  tcap := rfl
  tFatal := rfl
  ws h := rdNext_stores_ws h
  binding := rdNext_stores_alias s
  rsBound := rfl
  wsBound := rfl
  answers := by
    refine ⟨1, Nat.le_refl _, by simp, ?_⟩
    show s.stores.seenAt s.nextRead = s.storesAfter 1
    unfold State.storesAfter State.nextRead
    split
    · cases s.rdAns <;> rfl
    · rfl
  wrAns := rfl
  hostq := rfl
  accumulator _ := ⟨rfl, rfl⟩

theorem ReadFrame.poison {n : Nat} {s t : State} (h : ReadFrame n s t) (hs : s.chPoison = false) :
    ReadFrame n s t.poison :=
  { h with accumulator := by simp [hs] }

theorem ReadFrame.advance {n : Nat} {s t : State} (h : ReadFrame n s t) (m : Nat) : ReadFrame n s (t.advance m) :=
  { h with }

/-- A read leaves the buffer and the responses alone, and what `ReadFrame` names. -/
theorem readBits_frame (count : Nat) (s : State) (h : s.chPoison = false) :
    ReadFrame 1 s (readBits count s).2 ∧ (readBits count s).2.cb = s.cb ∧ (readBits count s).2.turn = s.turn ∧
    SameResponse s (readBits count s).2 := by
  rcases readBits_cases count s with ⟨_, e⟩ | ⟨_, _, e⟩ | ⟨_, _, e⟩ | ⟨_, _, k, d0, d1, _, _, _, e⟩ <;> rw [e]
  · exact ⟨((ReadFrame.refl s).mono (Nat.zero_le 1)).poison h, rfl, rfl, { SameResponse.refl s with }⟩
  · exact ⟨(rdNext_readFrame s).poison h, rfl, rfl, { SameResponse.refl s with }⟩
  · exact ⟨rdNext_readFrame s, rfl, rfl, { SameResponse.refl s with }⟩
  · exact ⟨(rdNext_readFrame s).advance _, rfl, rfl, { SameResponse.refl s with }⟩

/-- A read poisons the channel exactly when it reports IO_FAILURE. -/
theorem readBits_poison (count : Nat) (s : State) (h : s.chPoison = false) :
    (readBits count s).2.chPoison = true ↔ ∃ n b, (readBits count s).1 = .got n b .ioFailure := by
  rcases readBits_cases count s with ⟨_, e⟩ | ⟨_, _, e⟩ | ⟨_, _, e⟩ | ⟨_, _, k, d0, d1, _, _, _, e⟩ <;> rw [e] <;>
    simp [h]
  unfold readStatus
  split
  · simp
  · split <;> simp

/-- A read never delivers more than was asked for. -/
theorem readBits_le (count : Nat) (s : State) {n : Nat} {b : Byte} {st : Status}
    (h : (readBits count s).1 = .got n b st) : n ≤ count := by
  rcases readBits_cases count s with ⟨_, e⟩ | ⟨_, _, e⟩ | ⟨_, _, e⟩ | ⟨_, _, k, d0, d1, _, _, _, e⟩ <;>
    rw [e] at h <;> simp at h <;> omega

theorem ReadFrame.trans {n m : Nat} {s t u : State} (h : ReadFrame n s t) (h' : ReadFrame m t u) (hs : s.chPoison = false)
    (hu : t.chPoison = true → u.chPoison = true) : ReadFrame (n + m) s u where
  par := h'.par.trans h.par
  ent := h'.ent.trans h.ent
  tsize := h'.tsize.trans h.tsize
  tcap := h'.tcap.trans h.tcap
  tFatal := h'.tFatal.trans h.tFatal
  ws ha := (h'.ws (h.binding.trans ha)).trans (h.ws ha)
  binding := h'.binding.trans h.binding
  rsBound := h'.rsBound.trans h.rsBound
  wsBound := h'.wsBound.trans h.wsBound
  answers := by
    obtain ⟨k, hk, ha, hst⟩ := h.answers
    obtain ⟨k', hk', ha', hst'⟩ := h'.answers
    exact ⟨k + k', by omega, by rw [ha', ha, List.drop_drop], hst'.trans (storesAfter_add k' h.rsBound ha hst)⟩
  wrAns := h'.wrAns.trans h.wrAns
  hostq := h'.hostq.trans h.hostq
  accumulator e := by
    have ht : t.chPoison = false := by
      cases hp : t.chPoison with
      | false => rfl
      | true => rw [hu hp, hs] at e; cases e
    obtain ⟨a1, a2⟩ := h.accumulator (ht.trans hs.symm)
    obtain ⟨b1, b2⟩ := h'.accumulator (e.trans (hs.trans ht.symm))
    exact ⟨b1.trans a1, b2.trans a2⟩

theorem setCb_readFrame (s : State) (i : Nat) (b : Byte) : ReadFrame 0 s (s.setCb i b) := { ReadFrame.refl s with }

/-- RDCHUNK's loop leaves what `ReadFrame` names, the buffer's length, and the bytes outside its own. -/
theorem readLoop_frame (reqs : List Nat) (i total : Nat) (s : State) (h : s.chPoison = false) :
    ReadFrame reqs.length s (readLoop reqs i total s).2 ∧ (readLoop reqs i total s).2.cb.length = s.cb.length ∧
    (∀ j, j < i ∨ i + reqs.length ≤ j → (readLoop reqs i total s).2.cb[j]? = s.cb[j]?) ∧
    (readLoop reqs i total s).2.turn = s.turn ∧ SameResponse s (readLoop reqs i total s).2 ∧
    ((readLoop reqs i total s).2.chPoison = true ↔ ∃ n, (readLoop reqs i total s).1 = .failed n) := by
  induction reqs generalizing i total s with
  | nil => exact ⟨ReadFrame.refl s, rfl, fun _ _ => rfl, rfl, SameResponse.refl s, by simp [readLoop, h]⟩
  | cons req reqs ih =>
    obtain ⟨hf, hcb, hturn, hstat⟩ := readBits_frame req s h
    have hp := readBits_poison req s h
    have hle : 1 ≤ (req :: reqs).length := by simp
    rw [readLoop]
    rcases hr : readBits req s with ⟨r, t⟩
    rw [hr] at hf hcb hturn hstat hp
    cases r with
    | silent => exact ⟨hf.mono hle, by rw [hcb], fun _ _ => by rw [hcb], hturn, hstat, by simpa using hp⟩
    | got n b st =>
      simp only at hf hcb hturn hstat hp ⊢
      split
      · next hst => exact ⟨hf.mono hle, by rw [hcb], fun _ _ => by rw [hcb], hturn, hstat, by simp [hp, hst]⟩
      · next hst =>
        have ht : t.chPoison = false := by
          cases hq : t.chPoison with
          | false => rfl
          | true => obtain ⟨_, _, e⟩ := hp.1 hq; simp at e; exact absurd e.2.2 hst
        have hcbj : ∀ j, j ≠ i → (t.setCb i b).cb[j]? = s.cb[j]? := fun j hj => by
          simp [hcb, List.getElem?_set_ne (Ne.symm hj)]
        have hfs : ReadFrame 1 s (t.setCb i b) := hf.trans (setCb_readFrame t i b) h (by simp)
        split
        · exact ⟨hfs.mono hle, by simp [hcb], fun j hj => hcbj j (by simp at hj; omega), by simpa using hturn,
            hstat.trans { SameResponse.refl t with }, by simp [ht]⟩
        · obtain ⟨gf, gl, gj, gt, gs, gp⟩ := ih (i + 1) (total + n) (t.setCb i b) (by simpa using ht)
          refine ⟨(hfs.trans gf h (by simp [ht])).mono (by simp [Nat.add_comm]), by simp [gl, hcb], fun j hj => ?_, by simp [gt, hturn],
            (hstat.trans (u := t.setCb i b) { SameResponse.refl t with }).trans gs, gp⟩
          simp at hj
          rw [gj j (by omega), hcbj j (by omega)]

/-- An append and what may land: at most one byte, at the end of WS. -/
theorem land_frame (l : Bool) (b : Byte) (s : State) : WriteFrame 1 s (s.wrNext.land l b) := by
  refine ⟨rfl, rfl, rfl, rfl, rfl, rfl, fun ha => ?_, ?_, rfl, rfl, rfl, rfl, fun _ => rfl, ?_, fun a ha => ?_⟩ <;>
    cases l <;> simp [stores_append_rs, *]
  exact append_read?_ne _ _ (by omega)

theorem WriteFrame.refl (s : State) : WriteFrame 0 s s :=
  ⟨rfl, rfl, rfl, rfl, rfl, rfl, fun _ => rfl, rfl, rfl, rfl, rfl, rfl, fun _ => rfl, ⟨Nat.le_refl _, Nat.le_refl _⟩,
    fun _ _ => rfl⟩

theorem WriteFrame.mono {n m : Nat} {s t : State} (h : WriteFrame n s t) (hm : n ≤ m) : WriteFrame m s t :=
  { h with grows := ⟨h.grows.1, by have := h.grows.2; omega⟩, ws := fun a ha => h.ws a (by omega) }

theorem WriteFrame.trans {n m : Nat} {s t u : State} (h : WriteFrame n s t) (h' : WriteFrame m t u)
    (hs : s.chPoison = false) (hu : t.chPoison = true → u.chPoison = true) : WriteFrame (n + m) s u where
  par := h'.par.trans h.par
  cb := h'.cb.trans h.cb
  ent := h'.ent.trans h.ent
  tsize := h'.tsize.trans h.tsize
  tcap := h'.tcap.trans h.tcap
  tFatal := h'.tFatal.trans h.tFatal
  rs e := (h'.rs (h.binding.trans e)).trans (h.rs e)
  binding := h'.binding.trans h.binding
  wsBound := h'.wsBound.trans h.wsBound
  rsBound := h'.rsBound.trans h.rsBound
  rdAns := h'.rdAns.trans h.rdAns
  hostq := h'.hostq.trans h.hostq
  cursor e := by
    have ht : t.chPoison = false := by
      cases hp : t.chPoison with
      | false => rfl
      | true => rw [hu hp, hs] at e; cases e
    exact (h'.cursor (e.trans (hs.trans ht.symm))).trans (h.cursor (ht.trans hs.symm))
  grows := by have := h.grows; have := h'.grows; omega
  ws a ha := by
    have := h.grows; have := h'.grows
    rw [h'.ws a (by omega), h.ws a (by omega)]

/-- The accumulator, the poison and the free values are no part of the frame of a write that poisons. -/
theorem WriteFrame.poison {n : Nat} {s t : State} (h : WriteFrame n s t) (hs : s.chPoison = false) :
    WriteFrame n s t.poison :=
  { h with cursor := by simp [hs] }

/-- A write leaves what `WriteFrame` names, with at most one byte appended, and poisons the channel exactly when it
reports IO_FAILURE. -/
theorem writeBits_frame (count : Nat) (data : Byte) (s : State) (h : s.chPoison = false) :
    WriteFrame ((s.pcnt.toNat + count) / 8) s (writeBits count data s).2 ∧
    (writeBits count data s).2.turn = s.turn ∧ SameResponse s (writeBits count data s).2 ∧
    ((writeBits count data s).2.chPoison = true ↔ ∃ n, (writeBits count data s).1 = .sent n .ioFailure) := by
  rcases writeBits_cases count data s with ⟨_, e⟩ | ⟨h8, _, e⟩ | ⟨h8, l, _, e⟩ | ⟨h8, l, _, e⟩ <;> rw [e]
  · exact ⟨{ WriteFrame.refl s with
        grows := ⟨Nat.le_refl _, Nat.le_add_right _ _⟩
        ws := fun _ _ => rfl }, rfl, { SameResponse.refl s with }, by simp [h]⟩
  all_goals have h1 : 1 ≤ (s.pcnt.toNat + count) / 8 := Nat.div_pos h8 (by decide)
  · have f := (land_frame true ((writeShift s.pbits s.pcnt.toNat count data).extractLsb' 8 8) s).mono h1
    exact ⟨{ f with cursor := fun _ => rfl }, rfl, { SameResponse.refl s with }, by simp [h]⟩
  · exact ⟨((land_frame l _ s).mono h1).poison h, rfl, { SameResponse.refl s with }, by simp⟩
  · exact ⟨(land_frame l _ s).mono h1, rfl, { SameResponse.refl s with }, by simp [h]⟩

/-- WRCHUNK's loop leaves what `WriteFrame` names. -/
theorem writeLoop_frame (reqs : List Nat) (i total : Nat) (s : State) (h : s.chPoison = false) :
    WriteFrame ((s.pcnt.toNat + reqs.sum) / 8) s (writeLoop reqs i total s).2 ∧
    (writeLoop reqs i total s).2.turn = s.turn ∧ SameResponse s (writeLoop reqs i total s).2 ∧
    ((writeLoop reqs i total s).2.chPoison = true ↔ ∃ n, (writeLoop reqs i total s).1 = .failed n) := by
  induction reqs generalizing i total s with
  | nil => exact ⟨(WriteFrame.refl s).mono (Nat.zero_le _), rfl, SameResponse.refl s, by simp [writeLoop, h]⟩
  | cons req reqs ih =>
    obtain ⟨hf, hturn, hstat, hp⟩ := writeBits_frame req (s.cbByte i) s h
    have hc := writeBits_cases req (s.cbByte i) s
    have hle : (s.pcnt.toNat + req) / 8 ≤ (s.pcnt.toNat + (req :: reqs).sum) / 8 := by
      apply Nat.div_le_div_right; simp
    rw [writeLoop]
    rcases hr : writeBits req (s.cbByte i) s with ⟨r, t⟩
    rw [hr] at hf hturn hstat hp hc
    cases r with
    | silent => exact ⟨hf.mono hle, hturn, hstat, by simpa using hp⟩
    | sent n st =>
      simp only at hf hturn hstat hp ⊢
      split
      · next hst => exact ⟨hf.mono hle, hturn, hstat, by simp [hp, hst]⟩
      · next hst =>
        have ht : t.chPoison = false := by
          cases hq : t.chPoison with
          | false => rfl
          | true => obtain ⟨_, e⟩ := hp.1 hq; simp at e; exact absurd e.2 hst
        obtain ⟨gf, gt, gs, gp⟩ := ih (i + 1) (total + req) t ht
        refine ⟨(hf.trans gf h (by simp [ht])).mono ?_, gt.trans hturn, hstat.trans gs, gp⟩
        have hq : t.pcnt.toNat ≤ (s.pcnt.toNat + req) % 8 := by
          rcases hc with ⟨h8, e⟩ | ⟨h8, _, e⟩ | ⟨_, l, _, e⟩ | ⟨_, l, _, e⟩
          · obtain ⟨_, rfl⟩ := Prod.mk.inj e; simp [Nat.mod_eq_of_lt h8]
          · obtain ⟨_, rfl⟩ := Prod.mk.inj e
            simp
            omega
          · obtain ⟨e, _⟩ := Prod.mk.inj e; simp at e; exact absurd e.2 hst
          · obtain ⟨e, _⟩ := Prod.mk.inj e; simp at e
        simp only [List.sum_cons]
        omega

/-! ### The chunk's requests -/

/-- The requests of a chunk of `w` bits add up to `w`. -/
theorem chunkReqs_sum (w : Nat) : (chunkReqs w).sum = w := by
  have key : ∀ n, ((List.range n).map fun i => min (w - 8 * i) 8).sum = min w (8 * n) := by
    intro n
    induction n with
    | zero => simp
    | succ n ih => simp [List.range_succ, ih]; omega
  rw [chunkReqs, key, ceil8]
  omega

@[simp] theorem chunkReqs_length (w : Nat) : (chunkReqs w).length = ceil8 w := by simp [chunkReqs]

@[simp] theorem canon_length (B : List Byte) (w : Nat) : (canon B w).length = ceil8 w := by simp [canon]

@[simp] theorem fillCb_length (s : State) (bs : List Byte) : (s.fillCb bs).cb.length = s.cb.length := by
  simp; omega

@[simp] theorem insertEntry_length (p : Nat) (e : Entry) (es : List Entry) :
    (insertEntry p e es).length = es.length + 1 := by
  simp [insertEntry]; omega

/-! ### The table's operations -/

/-- ADDINC of a key that entry `p` holds: the count is at its limit, or it is counted once more (R157, R158). -/
theorem incrementAt_cases (p : Nat) (s : State) :
    ((s.slot p).count = 0xFFFFFFFF#32 ∧ incrementAt p s = s.failTable) ∨
    ((s.slot p).count ≠ 0xFFFFFFFF#32 ∧ incrementAt p s =
      (s.setEntries (s.entries.set p { s.slot p with count := (s.slot p).count + 1 })).respond .ok 0 0x00
        ((s.slot p).count + 1) p) := by
  unfold incrementAt
  by_cases h : (s.slot p).count = 0xFFFFFFFF#32 <;> simp [h]

/-- ADDINC of a new key: the table is full, or the entry is inserted (R159, R160). -/
theorem insertAt_cases (p : Nat) (k : Key) (s : State) :
    (s.tableFull = true ∧ insertAt p k s = s.failTable) ∨
    (s.tableFull = false ∧ insertAt p k s =
      (s.grow.setEntries (insertEntry p { pat := k.1, width := k.2, count := 1 } s.entries)).respond .ok 0 0x01 1 p) := by
  unfold insertAt
  cases h : s.tableFull <;> simp

/-- Everything ADDINC can do (R156). -/
theorem execAddinc_cases (w : BitVec 16) (s : State) :
    (widthOk s.par w = false ∧ execAddinc w s = .next (s.respond .invalidWidth 0 0 0 0)) ∨
    (widthOk s.par w = true ∧ s.tFatal = true ∧ execAddinc w s = .next (s.respond .tableFatal 0 0 0 0)) ∨
    (widthOk s.par w = true ∧ s.tFatal = false ∧ ∃ p, search (s.cbKey w) s.entries = (true, p) ∧
      execAddinc w s = .next (incrementAt p s)) ∨
    (widthOk s.par w = true ∧ s.tFatal = false ∧ ∃ p, search (s.cbKey w) s.entries = (false, p) ∧
      execAddinc w s = .next (insertAt p (s.cbKey w) s)) := by
  unfold execAddinc
  cases hw : widthOk s.par w
  · simp
  · cases hf : s.tFatal
    · rcases hs : search (s.cbKey w) s.entries with ⟨_ | _, p⟩ <;> simp
    · simp

/-- What `search` finds, from its definition: an entry with this key, the first one; or none. -/
theorem search_cases (k : Key) (es : List Entry) :
    (∃ i, ∃ h : i < es.length, search k es = (true, i) ∧ cmpkey k es[i].key = .eq) ∨
    ((∀ e ∈ es, cmpkey k e.key ≠ .eq) ∧
      search k es = (false, es.countP fun e => cmpkey e.key k == .lt)) := by
  unfold search
  cases h : es.findIdx? (fun e => cmpkey k e.key == .eq) with
  | none =>
    refine .inr ⟨fun e he => ?_, rfl⟩
    simpa using List.findIdx?_eq_none_iff.1 h e he
  | some i =>
    obtain ⟨hi, hp, _⟩ := List.findIdx?_eq_some_iff_getElem.1 h
    exact .inl ⟨i, hi, rfl, by simpa using hp⟩

end Sys2Proof.Machine
end

