-- ==== Sys2Proof/Laws/PerInstr.lean ====
section
/-! SUPPORT. Per instruction: the word of a command lies in the command's row of the opcode table (R94, R100), so that the
encoder (R99) and the table's match and mask pairs say the same. -/

namespace Sys2Proof.Laws.RowMatch

/-- The encoded word of a command matches its row. -/
def Statement (i : Instr) : Prop := i.row.matches (encode i) = true

/-- A word matches a row if it does so bit by bit. -/
theorem of_bits {i : Instr}
    (h : ∀ k : Nat, k < 32 → ((encode i).getLsbD k && i.row.mask.getLsbD k) = i.row.mat.getLsbD k) :
    Statement i := by
  simp only [Statement, OpRow.matches, beq_iff_eq]
  apply BitVec.eq_of_getLsbD_eq
  intro k hk
  rw [BitVec.getLsbD_and]
  exact h k hk

theorem nop : Statement .nop := by unfold Statement; decide

theorem rdbits (count : BitVec 4) : Statement (.rdbits count) := by
  apply of_bits
  intro k hk
  interval_cases k <;> simp [encode, lineWord, Instr.row, -BitVec.getLsbD_eq_getElem]

theorem wrbits (count : BitVec 4) (data : Byte) : Statement (.wrbits count data) := by
  apply of_bits
  intro k hk
  interval_cases k <;> simp [encode, lineWord, Instr.row, -BitVec.getLsbD_eq_getElem]

theorem flush (data : Byte) : Statement (.flush data) := by
  apply of_bits
  intro k hk
  interval_cases k <;> simp [encode, lineWord, Instr.row, flushRow, -BitVec.getLsbD_eq_getElem]

theorem rdchunk (w : BitVec 16) : Statement (.rdchunk w) := by
  apply of_bits
  intro k hk
  interval_cases k <;> simp [encode, lineWord, Instr.row, -BitVec.getLsbD_eq_getElem]

theorem wrchunk (w : BitVec 16) : Statement (.wrchunk w) := by
  apply of_bits
  intro k hk
  interval_cases k <;> simp [encode, lineWord, Instr.row, -BitVec.getLsbD_eq_getElem]

theorem addinc (w : BitVec 16) : Statement (.addinc w) := by
  apply of_bits
  intro k hk
  interval_cases k <;> simp [encode, lineWord, Instr.row, -BitVec.getLsbD_eq_getElem]

theorem tblrd (tidx : BitVec 24) : Statement (.tblrd tidx) := by
  apply of_bits
  intro k hk
  interval_cases k <;> simp [encode, lineWord, Instr.row, -BitVec.getLsbD_eq_getElem]

theorem ldcb (bidx : BitVec 16) : Statement (.ldcb bidx) := by
  apply of_bits
  intro k hk
  interval_cases k <;> simp [encode, lineWord, Instr.row, -BitVec.getLsbD_eq_getElem]

theorem stcb (bidx : BitVec 16) (data : Byte) : Statement (.stcb bidx data) := by
  apply of_bits
  intro k hk
  interval_cases k <;> simp [encode, lineWord, Instr.row, -BitVec.getLsbD_eq_getElem]

theorem rdsr (sel : BitVec 4) : Statement (.rdsr sel) := by
  apply of_bits
  intro k hk
  interval_cases k <;> simp [encode, lineWord, Instr.row, -BitVec.getLsbD_eq_getElem]

theorem chreset : Statement .chreset := by unfold Statement; decide

theorem tblreset : Statement .tblreset := by unfold Statement; decide

end Sys2Proof.Laws.RowMatch
end

