-- ==== Sys2Proof/Tests/Slice0.lean ====
section
/-! SUPPORT. Tests: the well-formedness smoke, words written out from 30_encoding, one command at a time from the vectors of
95_test_vectors, and a witness for the hypotheses of every statement. Expected results are the spec's. -/

namespace Sys2Proof.Tests

open Sys2Proof Sys2Proof.Machine

/-! ### Small states -/

/-- W_MAX 16 (PB_MAX 2), TABLE_LOG2 2 (TABLE_MAX 4), the read store given, the write store empty. -/
def fresh (rs : List Byte) : State :=
  State.resetWith { wMax := 16, tableLog2 := 2 } [0, 0] (.separate (Memory.ofBytes rs) [])

/-- RS of the RDBITS vectors with the cursor at `p`. -/
def atBit (p : Nat) : State := { fresh [0xB2, 0x4F] with rpos := BitVec.ofNat 64 p }

/-- A write channel with `n` pending bits. -/
def pending (b : Byte) (n : Nat) : State := { fresh [] with pbits := b, pcnt := BitVec.ofNat 3 n }

/-- A table with these entries, and capacity 4, the first buffer byte given. -/
def table (es : List Entry) (b0 : Byte) : State :=
  { fresh [] with ent := es, tsize := BitVec.ofNat 25 es.length, tcap := 4, cb := [b0, 0x0F] }

/-- The table of vector V-T1 after its third command. -/
def three : List Entry := [⟨[0x20], 4, 1⟩, ⟨[0x40], 4, 1⟩, ⟨[0xB0], 4, 1⟩]

/-- Both sticky flags set. -/
def flagged : State := { fresh [0xB2] with chPoison := true, tFatal := true, tsize := 2, tcap := 2 }

/-- What a view of the next state is, if there is one. -/
def view {α : Type} (f : State → α) (o : Host.Outcome State Fault Refusal) : Option α :=
  match o with
  | .next t => some (f t)
  | .fault _ => none
  | .refused _ => none

/-- The five response registers as numbers. -/
def response (t : State) : List Nat :=
  [t.rStat.toNat, t.rBits.toNat, t.rByte.toNat, t.rVal.toNat, t.rIdx.toNat]

/-! ### Well-formedness -/

theorem test_wrbits_of_no_bits_is_ill_formed : Instr.wellFormed (.wrbits 0 0xAB) = false := by decide
theorem test_wrbits_of_five_bits_is_well_formed : Instr.wellFormed (.wrbits 5 0xB0) = true := by decide

/-! ### Words of 95_test_vectors, and the words of its section 8 that are refused -/

theorem test_decode_nop : decode 0x00000000 = .ok .nop := by decide
theorem test_decode_rdbits : decode 0x14000000 = .ok (.rdbits 4) := by decide
theorem test_decode_wrbits : decode 0x25680000 = .ok (.wrbits 5 0x68) := by decide
theorem test_decode_flush : decode 0x20AB0000 = .ok (.flush 0xAB) := by decide
theorem test_decode_rdchunk : decode 0x3000000C = .ok (.rdchunk 12) := by decide
theorem test_decode_wrchunk : decode 0x40000018 = .ok (.wrchunk 24) := by decide
theorem test_decode_addinc : decode 0x50000004 = .ok (.addinc 4) := by decide
theorem test_decode_tblrd : decode 0x60FFFFFF = .ok (.tblrd 0xFFFFFF) := by decide
theorem test_decode_ldcb : decode 0x70002000 = .ok (.ldcb 8192) := by decide
theorem test_decode_stcb : decode 0x80FF2000 = .ok (.stcb 8192 0xFF) := by decide
theorem test_decode_rdsr : decode 0x90000006 = .ok (.rdsr 6) := by decide
theorem test_decode_chreset : decode 0xA0000000 = .ok .chreset := by decide
theorem test_decode_tblreset : decode 0xB0000000 = .ok .tblreset := by decide

theorem test_decode_refuses_reserved_opcodes :
    [0xC0000000, 0xD0000000, 0xE0000000, 0xFFFFFFFF].map decode =
      List.replicate 4 (.error Illegal.reservedOpcode) := by decide

theorem test_decode_refuses_reserved_bits :
    [0x00000001, 0x10010000, 0x14000001, 0x20000001, 0x30010004, 0x61000000, 0x70100000, 0x71000000, 0x90000010,
      0xA0000001, 0xB1000000].map decode = List.replicate 11 (.error Illegal.reservedBit) := by decide

theorem test_encode_of_spec_lines :
    [.rdbits 4, .wrbits 5 0xB0, .rdchunk 12, .addinc 12, .stcb 1 0x40, .rdsr 5].map encode =
      [0x14000000, 0x25B00000, 0x3000000C, 0x5000000C, 0x80400001, 0x90000005] := by decide

theorem test_table_word_of_the_flush_row : decodeTableWord 32 0x20000000 = some (.flush 0) := by decide

/-! ### Steps -/

/-- The word placed by `withFetchWord` is what the next step runs. -/
theorem test_step_runs_the_placed_word :
    view response (step ((fresh [0xB2]).withFetchWord 32 0x14000000)) = some [0, 4, 0xB0, 0, 0] := by decide

theorem test_step_of_an_illegal_word :
    view response (step ((fresh []).withFetchWord 32 0xC0000000)) = some [7, 0, 0, 0, 0] := by decide

/-- R76 and R239: the platform's binding changes the stores and nothing else. -/
theorem test_step_binds_the_ports :
    view (fun t => (t.stores, t.rsBound, t.wsBound, t.hostq))
      (step { atBit 4 with hostq := [.bind (.shared []) true false] }) = some (.shared [], true, false, []) := by decide

/-- R223: on unbound ports a read is end of stream and an append fails without the byte, whatever is listed. -/
theorem test_unbound_ports :
    (view (fun t => (response t, t.rpos)) (exec (.rdbits 4) { atBit 0 with rsBound := false, rdAns := [.err] }),
      view (fun t => (response t, t.stores.ws.bytes))
        (exec (.flush 0) { pending 0x40 2 with wsBound := false, wrAns := [.silent true] })) =
    (some ([2, 0, 0, 0, 0], 0), some ([3, 0, 0, 0, 0], [])) := by decide

/-- R72: the second read of the chunk sees RS as it is then. -/
theorem test_rdchunk_of_a_changed_store : view (fun t => (response t, t.cb))
    (exec (.rdchunk 12) { fresh [0xB2, 0x4F] with rdAns := [.ok, .okAfter (Memory.ofBytes [0x00, 0xA5])] }) =
      some ([0, 12, 0, 0, 0], [0xB2, 0xA0]) := by decide

/-! ### One command each: the vectors of 95_test_vectors -/

theorem test_nop : view response (exec .nop (atBit 4)) = some [0, 0, 0, 0, 0] := by decide

/-- V-B6: a read across the byte boundary. -/
theorem test_rdbits_straddles : view (fun t => (response t, t.rpos)) (exec (.rdbits 8) (atBit 3)) =
    some ([0, 8, 0x92, 0, 0], 11) := by decide

/-- V-B7: a truncated read; V-B4 of the same store is not shortened by the missing second byte. -/
theorem test_rdbits_truncates : (view (fun t => (response t, t.rpos)) (exec (.rdbits 8) (atBit 11)),
    view response (exec (.rdbits 4) (atBit 12))) = (some ([1, 5, 0x78, 0, 0], 16), some [0, 4, 0xF0, 0, 0]) := by decide

/-- V-W2: a byte is sent and the remainder stays pending. -/
theorem test_wrbits_sends_a_byte :
    view (fun t => (response t, t.pbits, t.pcnt, t.stores.ws.bytes)) (exec (.wrbits 5 0x68) (pending 0xB0 5)) =
      some ([0, 8, 0, 0, 0], 0x40, 2, [0xB3]) := by decide

/-- V-W8: the largest total. -/
theorem test_wrbits_largest_total :
    view (fun t => (response t, t.pbits, t.pcnt, t.stores.ws.bytes)) (exec (.wrbits 8 0xA5) (pending 0xFE 7)) =
      some ([0, 8, 0, 0, 0], 0x4A, 7, [0xFF]) := by decide

/-- V-W3: the pending bits go out, padded with zeros. -/
theorem test_flush : view (fun t => (response t, t.pbits, t.pcnt, t.stores.ws.bytes)) (exec (.flush 0) (pending 0x40 2)) =
    some ([0, 8, 0, 0, 0], 0, 0, [0x40]) := by decide

/-- V-W14, with the byte landed although the store reported an error. -/
theorem test_flush_fails : view (fun t => (response t, t.chPoison, t.stores.ws.bytes))
    (exec (.flush 0) { pending 0x40 2 with wrAns := [.err true] }) = some ([3, 0, 0, 0, 0], true, [0x40]) := by decide

/-- V-C2 #2: the loop stops at the first short delivery. -/
theorem test_rdchunk_truncates : view (fun t => (response t, t.cb, t.rpos)) (exec (.rdchunk 12) (atBit 12)) =
    some ([1, 4, 0, 0, 0], [0xF0, 0x00], 16) := by decide

/-- V-C7: the second read of the chunk fails. -/
theorem test_rdchunk_fails : view (fun t => (response t, t.cb, t.chPoison))
    (exec (.rdchunk 12) { fresh [0xB2, 0x4F, 0xA5] with rdAns := [.ok, .err] }) =
      some ([3, 8, 0, 0, 0], [0xB2, 0x00], true) := by decide

/-- V-D2: bytes spliced from two buffer bytes. -/
theorem test_wrchunk : view (fun t => (response t, t.pbits, t.pcnt, t.stores.ws.bytes))
    (exec (.wrchunk 12) { pending 0x40 4 with cb := [0xFA, 0x50] }) =
      some ([0, 12, 0, 0, 0], 0, 0, [0x4F, 0xA5]) := by decide

/-- V-D5: the second append fails and the byte did not land. -/
theorem test_wrchunk_fails : view (fun t => (response t, t.chPoison, t.stores.ws.bytes))
    (exec (.wrchunk 16) { fresh [] with cb := [0xB2, 0x4F], wrAns := [.ok, .err false] }) =
      some ([3, 8, 0, 0, 0], true, [0xB2]) := by decide

/-- V-T2: a known key. -/
theorem test_addinc_counts : view (fun t => (response t, t.slot 1, t.tsize)) (exec (.addinc 4) (table three 0x4F)) =
    some ([0, 0, 0, 2, 1], ⟨[0x40], 4, 2⟩, 3) := by decide

/-- V-T1 #3: a new key in the middle, with growth. -/
theorem test_addinc_inserts :
    view (fun t => (response t, t.entries, t.tsize, t.tcap))
      (exec (.addinc 4) { table [⟨[0x20], 4, 1⟩, ⟨[0xB0], 4, 1⟩] 0x40 with tcap := 2 }) =
      some ([0, 0, 1, 1, 1], three, 3, 4) := by decide

/-- V-T4 #5: one byte of the buffer is written, the next stays. -/
theorem test_tblrd : view (fun t => (response t, t.cb))
    (exec (.tblrd 1) (table [⟨[0x7F, 0xF0], 12, 1⟩, ⟨[0x80], 5, 1⟩] 0)) =
      some ([0, 5, 0, 1, 1], [0x80, 0x0F]) := by decide

/-- V-T7: the bound is TSIZE, not TCAP. -/
theorem test_tblrd_past_tsize : view response (exec (.tblrd 3) (table three 0)) = some [10, 0, 0, 0, 0] := by decide

theorem test_ldcb : view response (exec (.ldcb 1) (table three 0xB0)) = some [0, 0, 0x0F, 0, 0] := by decide
theorem test_ldcb_past_the_buffer : view response (exec (.ldcb 2) (fresh [])) = some [10, 0, 0, 0, 0] := by decide
theorem test_stcb : view (fun t => (response t, t.cb)) (exec (.stcb 1 0xFA) (table [] 0xB2)) =
    some ([0, 0, 0, 0, 0], [0xB2, 0xFA]) := by decide

/-- V-X7 and V-C6: the ID register of two configurations. -/
theorem test_rdsr_id : (view response (exec (.rdsr 0) State.reset),
    view response (exec (.rdsr 0) { fresh [] with par := { wMax := 12, tableLog2 := 16 } })) =
    (some [0, 0, 0, 0x0110FFFF, 0], some [0, 0, 0, 0x0110000C, 0]) := by decide

/-- V-X9 to V-X11: the accumulator, the two halves of the cursor, the flags. -/
theorem test_rdsr_fields : (view response (exec (.rdsr 4) (pending 0x40 2)),
    view response (exec (.rdsr 2) (atBit 0x10000000C)), view response (exec (.rdsr 3) (atBit 0x10000000C)),
    view response (exec (.rdsr 1) flagged)) =
    (some [0, 0, 0, 0x240, 0], some [0, 0, 0, 0xC, 0], some [0, 0, 0, 1, 0], some [0, 0, 0, 3, 0]) := by decide

/-- V-X12: the pending bits are lost. -/
theorem test_chreset : view (fun t => (response t, t.rpos, t.pbits, t.pcnt, t.stores.ws.bytes))
    (exec .chreset { pending 0x40 2 with rpos := 12 }) = some ([0, 0, 0, 0, 0], 0, 0, 0, []) := by decide

/-- V-X13: the table is empty and its slots are still there, unobservable. -/
theorem test_tblreset : view (fun t => (response t, t.entries, t.tcap, t.tFatal, t.ent))
    (exec .tblreset { table three 0 with tFatal := true }) = some ([0, 0, 0, 0, 0], [], 1, false, three) := by decide

/-- 95_test_vectors section 8, priority. -/
theorem test_checks_come_in_order :
    ([.rdchunk 0, .addinc 0, .wrbits 9 0, .rdbits 9, .rdchunk 12, .rdbits 0, .flush 0, .addinc 8, .tblrd 5].map
      fun i => view (fun t => t.rStat.toNat) (exec i flagged)) =
      [5, 5, 6, 6, 8, 8, 8, 9, 9].map some := by decide

/-! ### The helpers -/

/-- The values of rule R13. -/
theorem test_himask : [himask 0, himask 3, himask 8] = [0x00, 0xE0, 0xFF] := by decide
theorem test_canon : canon [0xBF, 0x77] 4 = [0xB0] ∧ canon [0x80, 0x0F] 12 = [0x80, 0x00] := by decide

/-- The orders of rule R161 (f) and (g). -/
theorem test_key_order : cmpkey ([0xA0], 3) ([0xA0], 4) = .lt ∧ cmpkey ([0x80], 5) ([0x80, 0x00], 12) = .lt ∧
    cmpkey ([0x7F, 0xF0], 12) ([0x80], 5) = .lt := by decide

/-- The reference search on the table of V-T1. -/
theorem test_reference_search : refSearch ([0x40], 4) three = (true, 1) ∧ refSearch ([0xF0], 4) three = (false, 3) ∧
    refSearch ([0x20], 4) [] = (false, 0) := by decide

end Sys2Proof.Tests
end

