-- ==== Sys2Proof/Tests/Witnesses.lean ====
section
/-! SUPPORT. For every statement with hypotheses, a concrete state and operands that meet all of them together, and for a
statement with several clauses one at a boundary of each clause. -/

namespace Sys2Proof.Tests

open Sys2Proof Sys2Proof.Machine

/-- A state whose host issues one word next. -/
def issuing (c : Word) : State := (fresh [0xB2]).issue c

/-- A full table of four entries, one count at its limit. -/
def full : State :=
  table [⟨[0x10], 8, 1⟩, ⟨[0x20], 8, 0xFFFFFFFF⟩, ⟨[0x30], 8, 1⟩, ⟨[0x40], 8, 1⟩] 0x20

/-! ### Encoding, steps, reset -/

theorem witness_DecodeOfEncodeIsTheCommand :
    Instr.wellFormed (.wrbits 15 0xFF) = true ∧ Instr.wellFormed (.tblrd 0xFFFFFF) = true := by decide

theorem witness_EncodeOfDecodeIsTheWord :
    decode 0x20FF0000 = .ok (.flush 0xFF) ∧ decode 0x21FF0000 = .ok (.wrbits 1 0xFF) := by decide

theorem witness_IllegalCommandOnlyAnswers :
    (issuing 0xC0000000).turn = .host ∧ (issuing 0xC0000000).hostq = [.cmd 0xC0000000] ∧
    0xC ≤ (opField 0xC0000000).toNat ∧ (∀ r ∈ opcodeMap, r.matches 0x14000001 = false) ∧
    7 ≤ (7#4).toNat ∧ (0x90000007 : Word) = 0x90000000 ||| (7#4).setWidth 32 := by decide

theorem witness_StepRunsTheDecodedCommand :
    (issuing 0x14000000).turn = .host ∧ (issuing 0x14000000).hostq = [.cmd 0x14000000] ∧
    decode 0x14000000 = .ok (.rdbits 4) := by decide

theorem witness_IdleBlockWaits : State.reset.turn = .host ∧ State.reset.hostq = [] := ⟨rfl, rfl⟩

theorem witness_SilentStoreLeavesOnlyReset :
    ({ issuing 0 with turn := .rsResponder }).turn ≠ .host ∧
    (∀ cbInit q, ({ issuing 0 with turn := .rsResponder }).hostq ≠ .rst cbInit :: q) ∧
    ({ fresh [] with turn := .wsResponder, hostq := [.rst [1, 2]] }).turn ≠ .host := by
  refine ⟨by decide, fun _ _ => by simp [issuing, State.issue], by decide⟩

theorem witness_HardwareResetSetsEveryRegister :
    ({ full with turn := .wsResponder, hostq := [.rst [1, 2]] }).hostq = [.rst [1, 2]] := by decide

theorem witness_ResetMeetsTheInvariant :
    Params.wf { wMax := 1, tableLog2 := 0 } ∧ Params.wf { wMax := 65535, tableLog2 := 24 } ∧
    ([0xAA] : List Byte).length = pbMax { wMax := 1, tableLog2 := 0 } ∧
    Stores.wf (.shared (Memory.ofBytes [0xB2, 0x4F])) := by decide

theorem witness_EveryStepKeepsTheInvariant :
    ((table three 0x60).issue 0x50000004).Inv ∧
    (∃ t, step ((table three 0x60).issue 0x50000004) = .next t ∧ t.tsize = 4) :=
  ⟨by decide, _, rfl, by decide⟩

/-! ### The stores -/

theorem witness_StoreReadAnswersWhatExists :
    Memory.wf (fresh [0xB2, 0x4F]).rdNext.rs ∧ (fresh [0xB2, 0x4F]).nextRead = .ok ∧
    (storeRead 1 2 (fresh [0xB2, 0x4F])).1 = .bytes 1 0x4F 0 ∧
    ({ fresh [0xB2] with rdAns := [.err] }).nextRead = .err ∧
    ({ fresh [0xB2] with rdAns := [.okAfter []] }).nextRead = .okAfter [] ∧
    Memory.wf ({ fresh [0xB2] with rdAns := [.okAfter []] }).rdNext.rs := by decide

theorem witness_StoreAppendAppendsOneByte :
    (storeAppend 0xB3 (fresh [])).1 = .ok ∧
    (storeAppend 0xB3 { fresh [] with wrAns := [.err true] }).1 = .err ∧ (fresh []).canTake 1 := by decide

/-- A binding taken by an idle block, unbound ports, a shared store with room, and a chunk whose second read sees another
RS. That a store of 2^61 - 1 bytes is full is the bound itself. -/
theorem witness_PortsReachTheStoresAsTheyAre :
    ({ fresh [] with hostq := [.bind (.shared []) false true] }).turn = .host ∧
    ({ fresh [] with hostq := [.bind (.shared []) false true] }).hostq = [.bind (.shared []) false true] ∧
    ({ fresh [0xB2] with rsBound := false, rdAns := [.err] }).rsBound = false ∧
    (fresh []).chPoison = false ∧ (fresh []).rpos.toNat + (8#4).toNat ≤ 2 ^ 64 - 1 ∧
    ({ fresh [] with wsBound := false }).wsBound = false ∧
    (let f := fun i => if i = 0 then Memory.ofBytes [0xB2, 0x4F] else Memory.ofBytes [0x00, 0xA5]
     let s := { fresh [] with rdAns := [.okAfter (f 0), .okAfter (f 1)] }
     1 ≤ (9#16).toNat ∧ (9#16).toNat ≤ s.par.wMax ∧ s.par.wf ∧ s.cb.length = pbMax s.par ∧ s.chPoison = false ∧
     s.rsBound = true ∧ s.rpos.toNat + (9#16).toNat ≤ 2 ^ 64 - 1 ∧
     (∀ i, i < ceil8 (9#16).toNat → Memory.wf (f i) ∧ s.rpos.toNat + (9#16).toNat ≤ 8 * (f i).len) ∧
     s.rdAns = (List.range (ceil8 (9#16).toNat)).map (fun i => .okAfter (f i)) ++ []) := by decide

/-- A shared store at the bound of R61: it exists, and it is full. -/
theorem witness_full_shared_store :
    storeMax ≤ (Stores.shared (Memory.ofBytes (List.replicate storeMax 0))).ws.len ∧
    (Stores.shared (Memory.ofBytes (List.replicate storeMax 0))).alias = true := by
  refine ⟨?_, rfl⟩
  rw [Stores.ws, Memory.len, Memory.ofBytes, List.length_zip, List.length_range, List.length_replicate, Nat.min_self]

theorem witness_AliasedReadsSeeAppends :
    Stores.wf (.shared []) ∧ (Stores.shared []).alias = true ∧ Stores.wf (.separate [(0, 0xB2)] []) ∧
    (Stores.separate [(0, 0xB2)] []).alias = false := by decide

/-! ### The BitChannel -/

theorem witness_ReadBitsDeliversTheStream :
    Memory.wf (atBit 11).rdNext.rs ∧ ∃ t, readBits 8 (atBit 11) = (.got 5 0x78 .truncated, t) :=
  ⟨by decide, _, rfl⟩

theorem witness_RdbitsDeliversBits :
    1 ≤ (8#4).toNat ∧ (8#4).toNat ≤ 8 ∧ (atBit 9).chPoison = false ∧
    (atBit 9).rpos.toNat + (8#4).toNat ≤ 2 ^ 64 - 1 ∧ (atBit 9).nextRead = .ok ∧ Memory.wf (atBit 9).rs := by decide

/-- The last cursor that does not overflow (vector V-B14) and the first that does (V-B13). -/
theorem witness_RdbitsChecksAndFails :
    8 < (9#4).toNat ∧ (8#4).toNat ≤ 8 ∧ flagged.chPoison = true ∧ (fresh []).chPoison = false ∧ 1 ≤ (4#4).toNat ∧
    2 ^ 64 - 1 < (atBit (2 ^ 64 - 4)).rpos.toNat + (4#4).toNat ∧
    (atBit (2 ^ 64 - 5)).rpos.toNat + (4#4).toNat ≤ 2 ^ 64 - 1 ∧
    ({ atBit 0 with rdAns := [.err] }).nextRead = .err := by decide

theorem witness_WrbitsAcceptsBits :
    (pending 0xFE 7).chPoison = false ∧ (pending 0xFE 7).accumulatorOk ∧ (pending 0xFE 7).nextAppend = .ok ∧
    ({ fresh [] with wsBound := false }).accumulatorOk ∧
    ({ fresh [] with wsBound := false }).pcnt.toNat + (7#4).toNat < 8 := by decide

theorem witness_WrbitsChecksAndFails :
    8 < (9#4).toNat ∧ flagged.chPoison = true ∧ ({ pending 0xFE 7 with wrAns := [.err true] }).chPoison = false ∧
    8 ≤ ({ pending 0xFE 7 with wrAns := [.err true] }).pcnt.toNat + (1#4).toNat ∧
    ({ pending 0xFE 7 with wrAns := [.err true] }).nextAppend = .err true ∧
    ({ pending 0xFE 7 with wrAns := [.err true] }).accumulatorOk ∧
    ({ pending 0xFE 7 with wsBound := false }).nextAppend = .err false := by decide

theorem witness_FlushWritesThePendingByte :
    flagged.chPoison = true ∧ (fresh []).chPoison = false ∧ (fresh []).pcnt = 0 ∧ (pending 0x80 1).chPoison = false ∧
    (pending 0x80 1).pcnt ≠ 0 ∧ (pending 0x80 1).nextAppend = .ok ∧
    ({ pending 0x80 1 with wrAns := [.err false] }).nextAppend = .err false := by decide

theorem witness_FlushPadsTheStreamToAByte :
    (pending 0xFE 7).chPoison = false ∧ (pending 0xFE 7).accumulatorOk ∧ (pending 0xFE 7).nextAppend = .ok ∧
    (fresh []).accumulatorOk ∧ (fresh []).pcnt = 0 := by decide

theorem witness_ReadCommandsFrame :
    (∃ t, exec (.rdbits 4) (atBit 0) = .next t) ∧ (∃ t, exec (.rdchunk 12) (atBit 0) = .next t) :=
  ⟨⟨_, rfl⟩, ⟨_, rfl⟩⟩

theorem witness_WriteCommandsFrame :
    (∃ t, exec (.wrbits 4 0xA0) (pending 0xFE 7) = .next t) ∧ (∃ t, exec (.flush 0) (pending 0xFE 7) = .next t) ∧
    (∃ t, exec (.wrchunk 12) (pending 0xFE 7) = .next t) :=
  ⟨⟨_, rfl⟩, ⟨_, rfl⟩, ⟨_, rfl⟩⟩

/-! ### The ChunkCodec -/

theorem witness_RdchunkReadsAChunk :
    1 ≤ (16#16).toNat ∧ (16#16).toNat ≤ (atBit 3).par.wMax ∧ (atBit 3).chPoison = false ∧
    Memory.wf (atBit 3).rs ∧ 13 = min (16#16).toNat (8 * (atBit 3).rs.len - (atBit 3).rpos.toNat) ∧
    (atBit 3).rpos.toNat + min (16#16).toNat (8 * (13 / 8) + 8) ≤ 2 ^ 64 - 1 ∧
    (∀ a ∈ (atBit 3).rdAns.take (ceil8 (16#16).toNat), a = .ok) := by decide

/-- A first request that just does not pass the cursor's limit, of a chunk that would: it ends at the end of the stream. -/
theorem witness_RdchunkReadsAChunk_near_the_limit :
    let s := atBit (2 ^ 64 - 9)
    0 = min (16#16).toNat (8 * s.rs.len - s.rpos.toNat) ∧
    s.rpos.toNat + min (16#16).toNat (8 * (0 / 8) + 8) ≤ 2 ^ 64 - 1 ∧
    2 ^ 64 - 1 < s.rpos.toNat + (16#16).toNat := by decide

theorem witness_RdchunkLeavesTheStreamInTheBuffer :
    (atBit 12).par.wf ∧ (atBit 12).cb.length = pbMax (atBit 12).par ∧ (atBit 12).chPoison = false ∧
    Memory.wf (atBit 12).rs ∧ (atBit 12).rsStill (ceil8 (12#16).toNat) ∧ (atBit 12).turn = .host ∧ 1 ≤ (12#16).toNat ∧
    (12#16).toNat ≤ (atBit 12).par.wMax ∧
    ∃ t, exec (.rdchunk 12) (atBit 12) = .next t ∧ t.turn = .host ∧ t.rStat ≠ 3 :=
  ⟨by decide, by decide, by decide, by decide, by decide, by decide, by decide, by decide, _, rfl, by decide, by decide⟩

/-- The second of two reads fails, the first delivers a full byte; and a cursor that the first request would overflow. -/
theorem witness_RdchunkFailureKeepsDeliveredBytes :
    let s := { fresh [0xB2] with rdAns := [.ok, .err] }
    (9#16).toNat ≤ s.par.wMax ∧ s.cb.length = pbMax s.par ∧ s.chPoison = false ∧ Memory.wf s.rs ∧
    1 < ceil8 (9#16).toNat ∧ s.rpos.toNat + 8 * 1 ≤ 2 ^ 64 - 1 ∧ s.rpos.toNat + 8 * 1 ≤ 8 * s.rs.len ∧
    (∀ a ∈ s.rdAns.take 1, a = .ok) ∧ s.rpos.toNat + min (9#16).toNat (8 * 1 + 8) ≤ 2 ^ 64 - 1 ∧ s.rsBound = true ∧
    s.rdAns[1]? = some .err ∧
    2 ^ 64 - 1 < (atBit (2 ^ 64 - 4)).rpos.toNat + min (9#16).toNat (8 * 0 + 8) ∧
    (∀ a ∈ (atBit (2 ^ 64 - 4)).rdAns.take 0, a = .ok) := by decide

theorem witness_WrchunkSendsTheChunk :
    let s := pending 0xA0 3
    1 ≤ (16#16).toNat ∧ (16#16).toNat ≤ s.par.wMax ∧ s.cb.length = pbMax s.par ∧ s.chPoison = false ∧
    s.accumulatorOk ∧ s.canTake ((s.pcnt.toNat + (16#16).toNat) / 8) ∧
    (∀ a ∈ s.wrAns.take ((s.pcnt.toNat + (16#16).toNat) / 8), a = .ok) := by decide

/-- The last append, of the chunk's partial request, fails. -/
theorem witness_WrchunkFailureCountsAcceptedBits :
    let s := { pending 0xFE 7 with wrAns := [.ok, .err true] }
    (9#16).toNat ≤ s.par.wMax ∧ s.cb.length = pbMax s.par ∧ s.chPoison = false ∧ s.accumulatorOk ∧
    1 < (s.pcnt.toNat + (9#16).toNat) / 8 ∧ (∀ j, j < 1 → s.appendAnswer j = .ok) ∧ s.appendAnswer 1 = .err true ∧
    1 ≤ (9#16).toNat ∧ ({ s with wsBound := false }).appendAnswer 0 = .err false := by decide

theorem witness_InvalidWidthOnlyAnswers :
    (fresh []).par.wMax < (17#16).toNat ∧ (0#16) = 0 := by decide

theorem witness_PoisonedChannelRefusesChunks :
    1 ≤ (16#16).toNat ∧ (16#16).toNat ≤ flagged.par.wMax ∧ flagged.chPoison = true := by decide

theorem witness_UnansweredCommandDoesNotEnd :
    let s := { pending 0x80 1 with rdAns := [.silent], wrAns := [.silent true] }
    s.chPoison = false ∧ s.nextRead = .silent ∧ s.pcnt ≠ 0 ∧ s.nextAppend = .silent true ∧
    1 ≤ (8#4).toNat ∧ (8#4).toNat ≤ 8 ∧ s.rpos.toNat + (8#4).toNat ≤ 2 ^ 64 - 1 ∧ s.accumulatorOk ∧
    8 ≤ s.pcnt.toNat + (7#4).toNat := by decide

/-- The second read, and the second append, is the one not answered. -/
theorem witness_UnansweredCommandDoesNotEnd_in_a_chunk :
    let s := { pending 0x80 1 with
      stores := .separate (Memory.ofBytes [0xB2]) [], rdAns := [.ok, .silent], wrAns := [.ok, .silent false] }
    s.chPoison = false ∧ 1 ≤ (16#16).toNat ∧ (16#16).toNat ≤ s.par.wMax ∧ 1 < ceil8 (16#16).toNat ∧
    s.rpos.toNat + min (16#16).toNat (8 * 1 + 8) ≤ 2 ^ 64 - 1 ∧ s.rpos.toNat + 8 * 1 ≤ 8 * s.rs.len ∧
    s.rsBound = true ∧ (∀ a ∈ s.rdAns.take 1, a = .ok) ∧ s.rdAns[1]? = some .silent ∧
    1 < (s.pcnt.toNat + (16#16).toNat) / 8 ∧ (∀ j, j < 1 → s.appendAnswer j = .ok) ∧
    s.appendAnswer 1 = .silent false := by decide

/-! ### The FrequencyTable -/

theorem witness_KeysAreTotallyOrdered :
    cmpkey ([0xA0], 3) ([0xA0], 4) = .lt ∧ cmpkey ([0xA0], 4) ([0xB0], 4) = .lt ∧
    cmpkey ([0xA0], 4) ([0xA0], 4) = .eq := by decide

theorem witness_FixedWidthComparatorAgrees :
    ([0x80] : List Byte).length = ceil8 (5#16).toNat ∧ ([0x80, 0x00] : List Byte).length = ceil8 (12#16).toNat ∧
    ([0x80, 0x00] : List Byte).length ≤ 2 := by decide

theorem witness_SearchMeetsItsContract :
    sortedEntries three ∧ cmpkey ([0xB0], 4) three[2].key = .eq ∧
    (∀ e ∈ three, cmpkey ([0xF0], 4) e.key ≠ .eq) := by decide

theorem witness_BinarySearchMeetsTheContract : sortedEntries three := by decide

theorem witness_AddincCountsAKnownKey :
    let s := table three 0xBF
    s.Inv ∧ 1 ≤ (4#16).toNat ∧ (4#16).toNat ≤ s.par.wMax ∧ s.tFatal = false ∧ 2 < s.tsize.toNat ∧
    (s.slot 2).key = (canon s.cb (4#16).toNat, 4#16) ∧ (s.slot 2).count ≠ 0xFFFFFFFF := by decide

theorem witness_AddincInsertsANewKey :
    let s := { table [⟨[0x20], 4, 1⟩, ⟨[0xB0], 4, 1⟩] 0xFF with tcap := 2 }
    s.Inv ∧ 1 ≤ (4#16).toNat ∧ (4#16).toNat ≤ s.par.wMax ∧ s.tFatal = false ∧
    (∀ i, i < s.tsize.toNat → (s.slot i).key ≠ (canon s.cb (4#16).toNat, 4#16)) ∧
    s.tsize.toNat < tableMax s.par := by decide

theorem witness_AddincStopsAtTheCountLimit :
    full.Inv ∧ 1 ≤ (8#16).toNat ∧ (8#16).toNat ≤ full.par.wMax ∧ full.tFatal = false ∧ 1 < full.tsize.toNat ∧
    (full.slot 1).key = (canon full.cb (8#16).toNat, 8#16) ∧ (full.slot 1).count = 0xFFFFFFFF := by decide

theorem witness_AddincStopsWhenTheTableIsFull :
    let s := { full with cb := [0x50, 0x00] }
    s.Inv ∧ 1 ≤ (8#16).toNat ∧ (8#16).toNat ≤ s.par.wMax ∧ s.tFatal = false ∧
    (∀ i, i < s.tsize.toNat → (s.slot i).key ≠ (canon s.cb (8#16).toNat, 8#16)) ∧
    s.tsize.toNat = tableMax s.par := by decide

theorem witness_AddincRaisesTheSumByOne :
    (table three 0x40).Inv ∧ (∃ t, exec (.addinc 4) (table three 0x40) = .next t ∧ t.rStat = 0) ∧
    full.Inv ∧ (∃ t, exec (.addinc 8) full = .next t ∧ t.rStat ≠ 0) :=
  ⟨by decide, ⟨_, rfl, by decide⟩, by decide, ⟨_, rfl, by decide⟩⟩

theorem witness_AddincIgnoresBitsOutsideTheChunk :
    (∀ j, j < (4#16).toNat → ((table three 0x40).cb.getD (j / 8) 0).getLsbD (7 - j % 8) =
      (([0x4F] : List Byte).getD (j / 8) 0).getLsbD (7 - j % 8)) ∧
    (∃ t, exec (.addinc 4) (table three 0x40) = .next t) :=
  ⟨by decide, _, rfl⟩

theorem witness_TblrdDeliversTheEntry :
    (table three 0).Inv ∧ (table three 0).tFatal = false ∧ (2#24).toNat < (table three 0).tsize.toNat := by decide

theorem witness_FatalTableRefuses :
    flagged.tFatal = true ∧ 1 ≤ (16#16).toNat ∧ (16#16).toNat ≤ flagged.par.wMax := by decide

theorem witness_IndexOutOfRangeOnlyAnswers :
    pbMax (table three 0).par ≤ (2#16).toNat ∧ (table three 0).tFatal = false ∧
    (table three 0).tsize.toNat ≤ (3#24).toNat := by decide

/-! ### The support commands and the whole machine -/

theorem witness_WrbitsOfZeroBitsIsFlush : (Instr.flush 0xFF).row.matches 0x20FF0000 = true := by decide

theorem witness_NopOnlyAnswers : decode 0x00000000 = .ok .nop := by decide

theorem witness_ChresetClearsTheChannel : decode 0xA0000000 = .ok .chreset := by decide

theorem witness_TblresetEmptiesTheTable :
    decode 0xB0000000 = .ok .tblreset ∧
    ∃ t, exec .tblreset flagged = .next t ∧ flagged.tFatal = true ∧ t.tFatal = false :=
  ⟨by decide, _, rfl, by decide, by decide⟩

theorem witness_BufferLoadsSeeStores :
    (fresh []).cb.length = pbMax (fresh []).par ∧ (1#16).toNat < pbMax (fresh []).par ∧ (0#16) ≠ 1#16 ∧
    (0#16).toNat < pbMax (fresh []).par := by decide

theorem witness_RdsrReadsTheStatusRegister :
    flagged.par.wf ∧ (6#4).toNat ≤ 6 ∧ (6#4) ≠ 2 ∧ (6#4) ≠ 3 ∧ (6#4) ≠ 4 ∧ (atBit 4).par.wf ∧
    (atBit 4).chPoison = false := by decide

theorem witness_RdsrOfAPoisonedChannel : flagged.chPoison = true ∧ ((4#4) = 2 ∨ (4#4) = 3 ∨ (4#4) = 4) := by decide

theorem witness_EveryCommandEnds :
    (∀ a ∈ ({ fresh [] with rdAns := [.ok, .err], wrAns := [.err true] }).rdAns, a ≠ .silent) ∧
    (∀ a ∈ ({ fresh [] with rdAns := [.ok, .err], wrAns := [.err true] }).wrAns,
      ∀ landed, a ≠ .silent landed) := by decide

theorem witness_CommandsEndWithTheirCodes :
    flagged.turn = .host ∧ ∃ t, exec (.tblrd 5) flagged = .next t ∧ t.turn = .host ∧ t.rStat = 9 :=
  ⟨by decide, _, rfl, by decide, by decide⟩

theorem witness_ResponsesAreNeverStale :
    (atBit 0).turn = .host ∧ ∃ t, exec (.rdbits 4) (atBit 0) = .next t ∧ t.turn = .host :=
  ⟨by decide, _, rfl, by decide⟩

theorem witness_CursorOnlyMovesForward :
    (Instr.rdchunk 12) ≠ .chreset ∧ (atBit 0).chPoison = false ∧
    ∃ t, exec (.rdchunk 12) (atBit 0) = .next t ∧ t.chPoison = false :=
  ⟨by decide, by decide, _, rfl, by decide⟩

theorem witness_PoisonIsSetByIoFailureAlone :
    (∃ t, exec (.rdbits 4) { atBit 0 with rdAns := [.err] } = .next t ∧ t.chPoison = true ∧ t.turn = .host ∧
      t.rStat = 3) ∧
    (∃ t, exec .chreset flagged = .next t ∧ flagged.chPoison = true ∧ t.chPoison = false) :=
  ⟨⟨_, rfl, by decide, by decide, by decide⟩, ⟨_, rfl, by decide, by decide⟩⟩

theorem witness_FatalIsSetByExhaustionAlone :
    (∃ t, exec (.addinc 8) full = .next t ∧ full.tFatal = false ∧ t.tFatal = true ∧ t.rStat = 4) ∧
    (∃ t, exec .tblreset flagged = .next t ∧ flagged.tFatal = true ∧ t.tFatal = false) :=
  ⟨⟨_, rfl, by decide, by decide, by decide⟩, ⟨_, rfl, by decide, by decide⟩⟩

theorem witness_ChannelAndTableAreIndependent :
    (∃ t, exec (.rdbits 4) (atBit 0) = .next t) ∧ Instr.isChannel (.rdbits 4) = true ∧
    (∃ t, exec (.addinc 4) (table three 0x40) = .next t) :=
  ⟨⟨_, rfl⟩, by decide, ⟨_, rfl⟩⟩

theorem witness_PoisonedRegistersAreNeverUsed :
    flagged.chPoison = true ∧ (∃ t, exec (.rdsr 4) flagged = .next t) ∧ (∃ t, exec .chreset flagged = .next t) :=
  ⟨by decide, ⟨_, rfl⟩, ⟨_, rfl⟩⟩

end Sys2Proof.Tests
end

section
/-! PROOFS. The state after reset meets the invariant (R39, R220). The accumulator and the empty table are stated for any
state with those register values, so that they serve every operation that clears them. -/

namespace Sys2Proof.Machine

/-- With no bit set in `PBITS` nothing stands below the pending bits (R25). -/
theorem accumulatorOk_of_pbits_eq_zero {s : State} (h : s.pbits = 0) : s.accumulatorOk :=
  fun _ => by simp [h]

theorem entries_eq_nil_of_tsize_eq_zero {s : State} (h : s.tsize = 0) : s.entries = [] :=
  List.eq_nil_of_length_eq_zero (by simp [h])

/-- Capacity 1 is the power `2 ^ 0`, which every `TABLE_LOG2` allows (R31). -/
theorem capacityOk_of_empty {s : State} (hsize : s.tsize = 0) (hcap : s.tcap = 1) : s.capacityOk := by
  have hone : s.tcap.toNat = 1 := by rw [hcap]; rfl
  refine ⟨by simp [hsize], ?_, .inl hone⟩
  exact List.mem_map.mpr ⟨0, by simp, hone.symm⟩

/-- An empty table of capacity 1, as TBLRESET and hardware reset leave it, meets the table invariant (R31, R33). -/
theorem tableOk_of_empty {s : State} (hsize : s.tsize = 0) (hcap : s.tcap = 1) : s.tableOk := by
  have hnil : s.entries = [] := entries_eq_nil_of_tsize_eq_zero hsize
  exact ⟨capacityOk_of_empty hsize hcap, by simp [hnil], by simp [hnil]⟩

theorem resetWith_inv {p : Params} {cbInit : List Byte} {st : Stores} (hp : p.wf) (hcb : cbInit.length = pbMax p)
    (hst : st.wf) : (State.resetWith p cbInit st).Inv :=
  have hstat : (State.resetWith p cbInit st).rStat.toNat ≤ 10 := Nat.zero_le 10
  ⟨hp, hcb, accumulatorOk_of_pbits_eq_zero rfl, tableOk_of_empty rfl rfl, hstat, hst,
    fun _ h => absurd h List.not_mem_nil, fun _ h => absurd h List.not_mem_nil, Agent.noConfusion⟩

/-- Settles O10: hardware reset leaves an empty accumulator and an empty table, and the rest of the invariant is what is
asked of the parameters, the buffer and the stores; those of `State.reset` meet it. -/
theorem resetMeetsTheInvariant : Obligations.ResetMeetsTheInvariant := by
  have hparams : Params.default.wf := by decide
  have hbuffer : (List.replicate 8192 (0 : Byte)).length = pbMax Params.default := List.length_replicate
  exact ⟨fun _ _ _ => resetWith_inv, resetWith_inv hparams hbuffer reset_stores_wf⟩

end Sys2Proof.Machine
end

section
/-! PROOFS. What a command can do, said once: a channel command answers at its checks or makes its run of the channel,
and any other command has one of a few effects and then responds. -/

namespace Sys2Proof.Machine

/-! ### Channel commands -/

/-- How a command ends after `readBits` (R113). -/
def endRead : BitRead × State → State
  | (.silent, t) => t.waitFor .rsResponder
  | (.got deliv byte st, t) => t.respond st deliv byte 0 0

/-- How a command ends after `writeBits` (R117). -/
def endWrite : BitWrite × State → State
  | (.silent, t) => t.waitFor .wsResponder
  | (.sent bits st, t) => t.respond st bits 0 0 0

/-- How a chunk command ends after its loop: `ranStatus` is the status when the loop ran, by the bits moved
(R132, R136). -/
def endChunk (waitsFor : Agent) (ranStatus : Nat → Status) : ChunkEnd × State → State
  | (.silent, t) => t.waitFor waitsFor
  | (.failed total, t) => t.failIo total
  | (.ran total, t) => t.respond (ranStatus total) total 0 0 0

/-- RDCHUNK's loop on the cleared front of the buffer (R132). -/
def runRdchunk (w : BitVec 16) (s : State) : ChunkEnd × State :=
  readLoop (chunkReqs w.toNat) 0 0 (s.fillCb (List.replicate (ceil8 w.toNat) 0))

/-- WRCHUNK's loop (R136). -/
def runWrchunk (w : BitVec 16) (s : State) : ChunkEnd × State := writeLoop (chunkReqs w.toNat) 0 0 s

/-- FLUSH's append: the pending bits padded with zero bits to a byte (R119). -/
def padPending (s : State) : BitWrite × State := writeBits (8 - s.pcnt.toNat) 0 s

/-- The answer of a channel command that moves no bit, in the order of its checks (R110, R113, R119, R203). -/
def channelAnswer (s : State) : Instr → Option Status
  | .rdbits count =>
    if countOk count = false then some .invalidCount
    else if s.chPoison then some .channelPoisoned
    else if count = 0 then some .ok
    else none
  | .wrbits count _ =>
    if countOk count = false then some .invalidCount
    else if s.chPoison then some .channelPoisoned
    else if count = 0 then (if s.pcnt = 0 then some .ok else none)
    else none
  | .flush _ =>
    if s.chPoison then some .channelPoisoned
    else if s.pcnt = 0 then some .ok
    else none
  | .rdchunk w | .wrchunk w =>
    if widthOk s.par w = false then some .invalidWidth
    else if s.chPoison then some .channelPoisoned
    else none
  | .nop | .addinc _ | .tblrd _ | .ldcb _ | .stcb _ _ | .rdsr _ | .chreset | .tblreset => none

/-- What a channel command does once its checks are passed. -/
def channelRun (s : State) : Instr → State
  | .rdbits count => endRead (readBits count.toNat s)
  | .wrbits count data => endWrite (if count = 0 then padPending s else writeBits count.toNat data s)
  | .flush _ => endWrite (padPending s)
  | .rdchunk w => endChunk .rsResponder (readStatus w.toNat) (runRdchunk w s)
  | .wrchunk w => endChunk .wsResponder (fun _ => .ok) (runWrchunk w s)
  | .nop | .addinc _ | .tblrd _ | .ldcb _ | .stcb _ _ | .rdsr _ | .chreset | .tblreset => s

/-- The pending bits padded with zero bits are `PBITS` itself: nothing of a byte of zeros reaches the window. -/
theorem writeShift_zero (pbits : Byte) (pcnt count : Nat) :
    writeShift pbits pcnt count 0 = pbits.setWidth 16 <<< 8 := by
  simp [writeShift]

theorem window_high (b : Byte) : (b.setWidth 16 <<< 8 : BitVec 16).extractLsb' 8 8 = b := by
  apply BitVec.eq_of_getLsbD_eq
  intro k hk
  interval_cases k <;> simp

theorem window_low (b : Byte) : (b.setWidth 16 <<< 8 : BitVec 16).extractLsb' 0 8 = 0 := by
  apply BitVec.eq_of_getLsbD_eq
  intro k hk
  interval_cases k <;> simp

/-- A FLUSH of pending bits is `writeBits` of as many zero bits as fill the byte (R119). -/
theorem flushPending_eq_padPending {s : State} (h : s.pcnt ≠ 0) : flushPending s = endWrite (padPending s) := by
  have hfull : s.pcnt.toNat + (8 - s.pcnt.toNat) = 8 := by omega
  unfold flushPending padPending writeBits
  simp only [if_neg h, hfull, writeShift_zero, window_high, window_low]
  rcases storeAppend s.pbits s with ⟨_ | _ | _, t⟩ <;> rfl

/-- A channel command answers at its checks, or makes its run. -/
theorem exec_channel {i : Instr} (hi : i.isChannel = true) (s : State) :
    exec i s = .next (((channelAnswer s i).map s.reject).getD (channelRun s i)) := by
  cases i with
  | rdbits count =>
    simp only [exec, execRdbits, channelAnswer, channelRun]
    split_ifs
    · rfl
    · rfl
    · rfl
    · rcases readBits count.toNat s with ⟨_ | _, t⟩ <;> rfl
  | wrbits count data =>
    by_cases hc : count = 0
    · simp only [exec, execWrbits, channelAnswer, channelRun, if_pos hc]
      split_ifs with _ _ hp
      · rfl
      · rfl
      · rw [flushPending, if_pos hp]; rfl
      · rw [flushPending_eq_padPending hp]; rfl
    · simp only [exec, execWrbits, channelAnswer, channelRun, if_neg hc]
      split_ifs
      · rfl
      · rfl
      · rcases writeBits count.toNat data s with ⟨_ | _, t⟩ <;> rfl
  | flush data =>
    simp only [exec, execFlush, channelAnswer, channelRun]
    split_ifs with _ hp
    · rfl
    · rw [flushPending, if_pos hp]; rfl
    · rw [flushPending_eq_padPending hp]; rfl
  | rdchunk w =>
    simp only [exec, execRdchunk, channelAnswer, channelRun, runRdchunk]
    split_ifs
    · rfl
    · rfl
    · rcases readLoop (chunkReqs w.toNat) 0 0 (s.fillCb _) with ⟨_ | _ | _, t⟩ <;> rfl
  | wrchunk w =>
    simp only [exec, execWrchunk, channelAnswer, channelRun, runWrchunk]
    split_ifs
    · rfl
    · rfl
    · rcases writeLoop (chunkReqs w.toNat) 0 0 s with ⟨_ | _ | _, t⟩ <;> rfl
  | nop | addinc | tblrd | ldcb | stcb | rdsr | chreset | tblreset => cases hi

/-- The two ways a channel command goes. -/
theorem channel_cases {i : Instr} {s t : State} (hi : i.isChannel = true) (h : exec i s = .next t) :
    (∃ st, channelAnswer s i = some st ∧ t = s.reject st) ∨ (channelAnswer s i = none ∧ t = channelRun s i) := by
  rw [exec_channel hi] at h
  obtain rfl := Host.Outcome.next.inj h
  cases hr : channelAnswer s i with
  | none => exact .inr ⟨rfl, rfl⟩
  | some st => exact .inl ⟨st, rfl, rfl⟩

/-- No check of a channel command answers IO_FAILURE. -/
theorem channelAnswer_ne_ioFailure (i : Instr) (s : State) : channelAnswer s i ≠ some .ioFailure := by
  cases i with
  | rdbits | wrbits | flush | rdchunk | wrchunk => simp only [channelAnswer]; split_ifs <;> simp
  | nop | addinc | tblrd | ldcb | stcb | rdsr | chreset | tblreset => simp [channelAnswer]

/-- On a poisoned channel every channel command stops at a check (R110, R199). -/
theorem channelAnswer_of_chPoison {i : Instr} {s : State} (hi : i.isChannel = true) (hp : s.chPoison = true) :
    ∃ st, channelAnswer s i = some st := by
  cases i with
  | rdbits count | wrbits count => cases hc : countOk count <;> simp [channelAnswer, hp, hc]
  | flush => simp [channelAnswer, hp]
  | rdchunk w | wrchunk w => cases hw : widthOk s.par w <;> simp [channelAnswer, hp, hw]
  | nop | addinc | tblrd | ldcb | stcb | rdsr | chreset | tblreset => cases hi

theorem chPoison_of_channelAnswer_eq_none {i : Instr} {s : State} (hi : i.isChannel = true)
    (h : channelAnswer s i = none) : s.chPoison = false := by
  by_contra hp
  obtain ⟨st, hst⟩ := channelAnswer_of_chPoison hi (by simpa using hp)
  rw [h] at hst
  cases hst

/-! ### Channel commands that pass their checks -/

theorem exec_rdbits_run {s : State} {count : BitVec 4} (h1 : 1 ≤ count.toNat) (h8 : count.toNat ≤ 8)
    (hs : s.chPoison = false) : exec (.rdbits count) s = .next (endRead (readBits count.toNat s)) := by
  have hc : count ≠ 0#4 := by rintro rfl; simp at h1
  rw [exec_channel rfl]
  simp [channelAnswer, channelRun, countOk, h8, hs, hc]

theorem exec_wrbits_run {s : State} {count : BitVec 4} (data : Byte) (h1 : 1 ≤ count.toNat) (h8 : count.toNat ≤ 8)
    (hs : s.chPoison = false) : exec (.wrbits count data) s = .next (endWrite (writeBits count.toNat data s)) := by
  have hc : count ≠ 0#4 := by rintro rfl; simp at h1
  rw [exec_channel rfl]
  simp [channelAnswer, channelRun, countOk, h8, hs, hc]

theorem exec_flush_run {s : State} (data : Byte) (hs : s.chPoison = false) (hp : s.pcnt ≠ 0) :
    exec (.flush data) s = .next (endWrite (padPending s)) := by
  have hp' : s.pcnt ≠ 0#3 := hp
  rw [exec_channel rfl]
  simp [channelAnswer, channelRun, hs, hp']

theorem exec_rdchunk_run {s : State} {w : BitVec 16} (h1 : 1 ≤ w.toNat) (hw : w.toNat ≤ s.par.wMax)
    (hs : s.chPoison = false) :
    exec (.rdchunk w) s = .next (endChunk .rsResponder (readStatus w.toNat) (runRdchunk w s)) := by
  rw [exec_channel rfl]
  simp [channelAnswer, channelRun, widthOk, h1, hw, hs]

theorem exec_wrchunk_run {s : State} {w : BitVec 16} (h1 : 1 ≤ w.toNat) (hw : w.toNat ≤ s.par.wMax)
    (hs : s.chPoison = false) :
    exec (.wrchunk w) s = .next (endChunk .wsResponder (fun _ => .ok) (runWrchunk w s)) := by
  rw [exec_channel rfl]
  simp [channelAnswer, channelRun, widthOk, h1, hw, hs]

/-! ### The other commands -/

/-- What a command that does not use the channel does to the block before it responds with a status. -/
inductive Effect (s : State) : Instr → Status → State → Prop
  /-- A check that refuses, or a command that only shows something. -/
  | kept {i : Instr} {st : Status} (hst : st ≠ .resourceExhausted) : Effect s i st s
  /-- STCB. -/
  | bufferByte (bidx : BitVec 16) (b : Byte) : Effect s (.stcb bidx b) .ok (s.setCb bidx.toNat b)
  /-- TBLRD. -/
  | bufferFront (tidx : BitVec 24) (bs : List Byte) : Effect s (.tblrd tidx) .ok (s.fillCb bs)
  /-- RDSR. -/
  | statusRead (sel : BitVec 4) : Effect s (.rdsr sel) .ok (s.srDrawn sel.toNat)
  | channelCleared : Effect s .chreset .ok s.clearChannel
  | tableCleared : Effect s .tblreset .ok s.clearTable
  /-- ADDINC at its limits (R158, R160). -/
  | tableFailed (w : BitVec 16) : Effect s (.addinc w) .resourceExhausted s.fatal
  /-- ADDINC of a known key (R157). -/
  | counted {w : BitVec 16} {p : Nat} (hsearch : search (s.cbKey w) s.entries = (true, p))
      (hcount : (s.slot p).count ≠ 0xFFFFFFFF#32) :
      Effect s (.addinc w) .ok (s.setEntries (s.entries.set p { s.slot p with count := (s.slot p).count + 1 }))
  /-- ADDINC of a new key (R159). -/
  | inserted {w : BitVec 16} {p : Nat} (hw : widthOk s.par w = true)
      (hsearch : search (s.cbKey w) s.entries = (false, p)) (hfull : s.tableFull = false) :
      Effect s (.addinc w) .ok
        (s.grow.setEntries (insertEntry p { pat := (s.cbKey w).1, width := (s.cbKey w).2, count := 1 } s.entries))

/-- The command has one of the effects and then responds. -/
def ActsThenResponds (i : Instr) (s : State) : Prop :=
  ∃ st u n b v x, Effect s i st u ∧ exec i s = .next (u.respond st n b v x)

theorem Effect.actsThenResponds {i : Instr} {s u : State} {st : Status} {n : Nat} {b : Byte} {v : BitVec 32} {x : Nat}
    (h : Effect s i st u) (e : exec i s = .next (u.respond st n b v x)) : ActsThenResponds i s :=
  ⟨st, u, n, b, v, x, h, e⟩

theorem addinc_actsThenResponds (w : BitVec 16) (s : State) : ActsThenResponds (.addinc w) s := by
  rcases execAddinc_cases w s with ⟨_, e⟩ | ⟨_, _, e⟩ | ⟨_, _, p, hs, e⟩ | ⟨hw, _, p, hs, e⟩
  · exact (Effect.kept (by simp)).actsThenResponds e
  · exact (Effect.kept (by simp)).actsThenResponds e
  · rcases incrementAt_cases p s with ⟨_, e'⟩ | ⟨hc, e'⟩ <;> rw [e'] at e
    · exact (Effect.tableFailed w).actsThenResponds e
    · exact (Effect.counted hs hc).actsThenResponds e
  · rcases insertAt_cases p (s.cbKey w) s with ⟨_, e'⟩ | ⟨hf, e'⟩ <;> rw [e'] at e
    · exact (Effect.tableFailed w).actsThenResponds e
    · exact (Effect.inserted hw hs hf).actsThenResponds e

theorem exec_actsThenResponds {i : Instr} (hi : i.isChannel = false) (s : State) : ActsThenResponds i s := by
  cases i with
  | nop => exact (Effect.kept (st := .ok) (by simp)).actsThenResponds rfl
  | addinc w => exact addinc_actsThenResponds w s
  | tblrd tidx =>
    by_cases hf : s.tFatal = true
    · exact (Effect.kept (by simp)).actsThenResponds (if_pos hf)
    · by_cases hr : s.tsize.toNat ≤ tidx.toNat
      · exact (Effect.kept (by simp)).actsThenResponds ((if_neg hf).trans (if_pos hr))
      · exact (Effect.bufferFront tidx _).actsThenResponds ((if_neg hf).trans (if_neg hr))
  | ldcb bidx =>
    by_cases hb : bidxOk s.par bidx = false
    · exact (Effect.kept (by simp)).actsThenResponds (if_pos hb)
    · exact (Effect.kept (by simp)).actsThenResponds (if_neg hb)
  | stcb bidx data =>
    by_cases hb : bidxOk s.par bidx = false
    · exact (Effect.kept (by simp)).actsThenResponds (if_pos hb)
    · exact (Effect.bufferByte bidx data).actsThenResponds (if_neg hb)
  | rdsr sel =>
    by_cases hs : 6 < sel.toNat
    · exact (Effect.kept (by simp)).actsThenResponds (if_pos hs)
    · exact (Effect.statusRead sel).actsThenResponds (if_neg hs)
  | chreset => exact Effect.channelCleared.actsThenResponds rfl
  | tblreset => exact Effect.tableCleared.actsThenResponds rfl
  | rdbits | wrbits | flush | rdchunk | wrchunk => cases hi

theorem effect_cases {i : Instr} {s t : State} (hi : i.isChannel = false) (h : exec i s = .next t) :
    ∃ st u n b v x, Effect s i st u ∧ t = u.respond st n b v x := by
  obtain ⟨st, u, n, b, v, x, he, e⟩ := exec_actsThenResponds hi s
  exact ⟨st, u, n, b, v, x, he, Host.Outcome.next.inj (h.symm.trans e)⟩

/-- Every command answers a next state: no meaning of a command faults or is refused. -/
theorem exec_next (i : Instr) (s : State) : ∃ t, exec i s = .next t := by
  cases hi : i.isChannel with
  | true => exact ⟨_, exec_channel hi s⟩
  | false =>
    obtain ⟨_, _, _, _, _, _, _, e⟩ := exec_actsThenResponds hi s
    exact ⟨_, e⟩

end Sys2Proof.Machine
end

section
/-! PROOFS. The frames of the channel commands, however they end (R24, R26, R28, R61, R63, R205). -/

namespace Sys2Proof.Machine

/-! ### Responding and waiting are in every frame -/

theorem ReadFrame.respond {n : Nat} {s t : State} (h : ReadFrame n s t) (st : Status) (m : Nat) (b : Byte)
    (v : BitVec 32) (x : Nat) : ReadFrame n s (t.respond st m b v x) := { h with }

theorem ReadFrame.waitFor {n : Nat} {s t : State} (h : ReadFrame n s t) (a : Agent) : ReadFrame n s (t.waitFor a) :=
  { h with }

theorem WriteFrame.respond {n : Nat} {s t : State} (h : WriteFrame n s t) (st : Status) (m : Nat) (b : Byte)
    (v : BitVec 32) (x : Nat) : WriteFrame n s (t.respond st m b v x) := { h with }

theorem WriteFrame.waitFor {n : Nat} {s t : State} (h : WriteFrame n s t) (a : Agent) : WriteFrame n s (t.waitFor a) :=
  { h with }

theorem ReadFrame.endRead {n : Nat} {s : State} {r : BitRead × State} (h : ReadFrame n s r.2) :
    ReadFrame n s (endRead r) := by
  rcases r with ⟨_ | _, t⟩
  · exact h.respond ..
  · exact h.waitFor _

theorem ReadFrame.endChunk {n : Nat} {s : State} {r : ChunkEnd × State} (h : ReadFrame n s r.2) (a : Agent)
    (f : Nat → Status) : ReadFrame n s (endChunk a f r) := by
  rcases r with ⟨_ | _ | _, t⟩
  · exact h.respond ..
  · exact h.respond ..
  · exact h.waitFor _

theorem WriteFrame.endWrite {n : Nat} {s : State} {r : BitWrite × State} (h : WriteFrame n s r.2) :
    WriteFrame n s (endWrite r) := by
  rcases r with ⟨_ | _, t⟩
  · exact h.respond ..
  · exact h.waitFor _

theorem WriteFrame.endChunk {n : Nat} {s : State} {r : ChunkEnd × State} (h : WriteFrame n s r.2) (a : Agent)
    (f : Nat → Status) : WriteFrame n s (endChunk a f r) := by
  rcases r with ⟨_ | _ | _, t⟩
  · exact h.respond ..
  · exact h.respond ..
  · exact h.waitFor _

@[simp] theorem endRead_cb (r : BitRead × State) : (endRead r).cb = r.2.cb := by rcases r with ⟨_ | _, t⟩ <;> rfl

@[simp] theorem endChunk_cb (a : Agent) (f : Nat → Status) (r : ChunkEnd × State) : (endChunk a f r).cb = r.2.cb := by
  rcases r with ⟨_ | _ | _, t⟩ <;> rfl

/-! ### RDBITS and RDCHUNK -/

/-- Filling the front of the buffer leaves the bytes past the filling. -/
theorem fillCb_getElem?_of_le (s : State) {bs : List Byte} {j : Nat} (hj : bs.length ≤ j) :
    (s.fillCb bs).cb[j]? = s.cb[j]? := by
  rw [fillCb_cb, List.getElem?_take]
  split
  · next h => rw [List.getElem?_append_right hj, List.getElem?_drop, Nat.add_sub_cancel' hj]
  · next h => rw [List.getElem?_eq_none (Nat.le_of_not_lt h)]

/-- The buffer is no part of the frame of a read. -/
theorem ReadFrame.of_fillCb {n : Nat} {s t : State} {bs : List Byte} (h : ReadFrame n (s.fillCb bs) t) :
    ReadFrame n s t := { h with }

theorem rdbits_frame {count : BitVec 4} {s t : State} (h : exec (.rdbits count) s = .next t) :
    ReadFrame 1 s t ∧ t.cb = s.cb := by
  rcases channel_cases rfl h with ⟨st, _, rfl⟩ | ⟨hrun, rfl⟩
  · exact ⟨((ReadFrame.refl s).mono (Nat.zero_le 1)).respond .., rfl⟩
  · obtain ⟨hframe, hcb, _⟩ := readBits_frame count.toNat s (chPoison_of_channelAnswer_eq_none rfl hrun)
    exact ⟨hframe.endRead, (endRead_cb _).trans hcb⟩

/-- RDCHUNK's run leaves what `ReadFrame` names, the buffer's size and the bytes past the chunk. -/
theorem runRdchunk_frame (w : BitVec 16) {s : State} (hs : s.chPoison = false) :
    ReadFrame (ceil8 w.toNat) s (runRdchunk w s).2 ∧ (runRdchunk w s).2.cb.length = s.cb.length ∧
    ∀ j, ceil8 w.toNat ≤ j → (runRdchunk w s).2.cb[j]? = s.cb[j]? := by
  obtain ⟨hframe, hlen, hcb, _⟩ :=
    readLoop_frame (chunkReqs w.toNat) 0 0 (s.fillCb (List.replicate (ceil8 w.toNat) 0)) hs
  rw [chunkReqs_length] at hframe hcb
  refine ⟨hframe.of_fillCb, hlen.trans (fillCb_length ..), fun j hj => ?_⟩
  exact (hcb j (by omega)).trans (fillCb_getElem?_of_le s (by simpa using hj))

theorem rdchunk_frame {w : BitVec 16} {s t : State} (h : exec (.rdchunk w) s = .next t) :
    ReadFrame (ceil8 w.toNat) s t ∧ t.cb.length = s.cb.length ∧ ∀ j, ceil8 w.toNat ≤ j → t.cb[j]? = s.cb[j]? := by
  rcases channel_cases rfl h with ⟨st, _, rfl⟩ | ⟨hrun, rfl⟩
  · exact ⟨((ReadFrame.refl s).mono (Nat.zero_le _)).respond .., rfl, fun _ _ => rfl⟩
  · obtain ⟨hframe, hlen, hcb⟩ := runRdchunk_frame w (chPoison_of_channelAnswer_eq_none rfl hrun)
    exact ⟨hframe.endChunk _ _, by simpa [channelRun] using hlen, by simpa [channelRun] using hcb⟩

/-- Settles O23: a check that stops the command changes the response alone, and the run of each has its frame. -/
theorem readCommandsFrame : Obligations.ReadCommandsFrame :=
  fun _ _ => ⟨fun _ => rdbits_frame, fun _ => rdchunk_frame⟩

/-! ### WRBITS, FLUSH and WRCHUNK -/

/-- A FLUSH appends at most one byte: the pending bits and the padding fill exactly one. -/
theorem padPending_frame {s : State} (hs : s.chPoison = false) : WriteFrame 1 s (padPending s).2 := by
  obtain ⟨hframe, _⟩ := writeBits_frame (8 - s.pcnt.toNat) 0 s hs
  have hfull : s.pcnt.toNat + (8 - s.pcnt.toNat) = 8 := by omega
  rwa [hfull] at hframe

theorem wrbits_frame {count : BitVec 4} {data : Byte} {s t : State} (h : exec (.wrbits count data) s = .next t) :
    WriteFrame (if count = 0 then 1 else (s.pcnt.toNat + count.toNat) / 8) s t := by
  rcases channel_cases rfl h with ⟨st, _, rfl⟩ | ⟨hrun, rfl⟩
  · exact ((WriteFrame.refl s).mono (Nat.zero_le _)).respond ..
  · have hs := chPoison_of_channelAnswer_eq_none rfl hrun
    by_cases hc : count = 0
    · simpa only [channelRun, if_pos hc] using (padPending_frame hs).endWrite
    · simpa only [channelRun, if_neg hc] using (writeBits_frame count.toNat data s hs).1.endWrite

theorem flush_frame {data : Byte} {s t : State} (h : exec (.flush data) s = .next t) : WriteFrame 1 s t := by
  rcases channel_cases rfl h with ⟨st, _, rfl⟩ | ⟨hrun, rfl⟩
  · exact ((WriteFrame.refl s).mono (Nat.zero_le _)).respond ..
  · exact (padPending_frame (chPoison_of_channelAnswer_eq_none rfl hrun)).endWrite

theorem wrchunk_frame {w : BitVec 16} {s t : State} (h : exec (.wrchunk w) s = .next t) :
    WriteFrame ((s.pcnt.toNat + w.toNat) / 8) s t := by
  rcases channel_cases rfl h with ⟨st, _, rfl⟩ | ⟨hrun, rfl⟩
  · exact ((WriteFrame.refl s).mono (Nat.zero_le _)).respond ..
  · obtain ⟨hframe, _⟩ := writeLoop_frame (chunkReqs w.toNat) 0 0 s (chPoison_of_channelAnswer_eq_none rfl hrun)
    rw [chunkReqs_sum] at hframe
    exact hframe.endChunk _ _

/-- Settles O24: as for the reads, FLUSH being a write of as many zero bits as fill the pending byte. -/
theorem writeCommandsFrame : Obligations.WriteCommandsFrame :=
  fun _ _ => ⟨fun _ _ => wrbits_frame, fun _ => flush_frame, fun _ => wrchunk_frame⟩

/-! ### All channel commands -/

/-- No channel command touches the table or its flag (R161). -/
theorem channel_tFatal {i : Instr} {s t : State} (hi : i.isChannel = true) (h : exec i s = .next t) :
    t.tFatal = s.tFatal := by
  cases i with
  | rdbits => exact (rdbits_frame h).1.tFatal
  | rdchunk => exact (rdchunk_frame h).1.tFatal
  | wrbits => exact (wrbits_frame h).tFatal
  | flush => exact (flush_frame h).tFatal
  | wrchunk => exact (wrchunk_frame h).tFatal
  | nop | addinc | tblrd | ldcb | stcb | rdsr | chreset | tblreset => cases hi

end Sys2Proof.Machine
end

section
/-! PROOFS. The write side in stream order: the accumulator and the data through the barrel shifter, and the bits that
`writeBits` accepts (R25, R38, R117). -/

namespace Sys2Proof.Machine

@[simp] theorem byteBits_length (b : Byte) : (byteBits b).length = 8 := by simp [byteBits]

theorem byteBits_getElem (b : Byte) {j : Nat} (hj : j < (byteBits b).length) : (byteBits b)[j] = b.getLsbD (7 - j) := by
  simp [byteBits]

theorem streamBits_append_byte (bs : List Byte) (b : Byte) : streamBits (bs ++ [b]) = streamBits bs ++ byteBits b := by
  simp [streamBits]

/-- Nothing stands below the `n` earliest bits of a byte exactly when its later bits are zero (R25). -/
theorem and_not_himask_eq_zero_iff (b : Byte) {n : Nat} (hn : n ≤ 8) :
    b &&& ~~~ himask n = 0#8 ↔ ∀ j, n ≤ j → j < 8 → b.getLsbD (7 - j) = false := by
  have hbit : ∀ j, j < 8 → (b &&& ~~~ himask n).getLsbD (7 - j) = (b.getLsbD (7 - j) && decide (n ≤ j)) := by
    intro j hj
    have hlt : decide (7 - j < 8) = true := by simp; omega
    rw [BitVec.getLsbD_and, BitVec.getLsbD_not, himask_bit hn hj, hlt, Bool.true_and]
    simp only [← decide_not, Nat.not_lt]
  constructor
  · intro h j hnj hj
    have := hbit j hj
    rw [h, decide_eq_true hnj, Bool.and_true, BitVec.getLsbD_zero] at this
    exact this.symm
  · intro h
    apply BitVec.eq_of_getLsbD_eq
    intro k hk
    have hk7 : 7 - (7 - k) = k := by omega
    have := hbit (7 - k) (by omega)
    rw [hk7] at this
    rw [this, BitVec.getLsbD_zero, Bool.and_eq_false_iff, decide_eq_false_iff_not]
    by_cases hnk : n ≤ 7 - k
    · exact .inl (hk7 ▸ h (7 - k) hnk (by omega))
    · exact .inr hnk

/-- The two bytes of a 16-bit window, earliest bit first. -/
theorem windowBits_getElem (acc : BitVec 16) {x : Nat}
    (hx : x < (byteBits (acc.extractLsb' 8 8) ++ byteBits (acc.extractLsb' 0 8)).length) :
    (byteBits (acc.extractLsb' 8 8) ++ byteBits (acc.extractLsb' 0 8))[x] = acc.getLsbD (15 - x) := by
  have h16 : x < 16 := by simpa using hx
  rw [List.getElem_append]
  split
  · next h =>
    have h8 : x < 8 := by simpa using h
    rw [byteBits_getElem, BitVec.getLsbD_extractLsb', decide_eq_true (by omega), Bool.true_and]
    congr 1; omega
  · next h =>
    have h8 : 8 ≤ x := by simpa using h
    rw [byteBits_getElem, BitVec.getLsbD_extractLsb', decide_eq_true (by simp; omega), Bool.true_and]
    congr 1; simp; omega

/-- The write shifter's window in stream order: the pending bits, the new ones, zeros (R117). -/
theorem writeShift_stream (pbits data : Byte) {pcnt count : Nat} (hp : pcnt < 8) (hc : count ≤ 8)
    (hzero : pbits &&& ~~~ himask pcnt = 0#8) :
    byteBits ((writeShift pbits pcnt count data).extractLsb' 8 8) ++
        byteBits ((writeShift pbits pcnt count data).extractLsb' 0 8) =
      (byteBits pbits).take pcnt ++ (byteBits data).take count ++ List.replicate (16 - (pcnt + count)) false := by
  have hlow := (and_not_himask_eq_zero_iff pbits (Nat.le_of_lt hp)).1 hzero
  apply List.ext_getElem
  · simp; omega
  · intro x hx _
    have hx16 : x < 16 := by simpa using hx
    rw [windowBits_getElem, writeShift_bit pbits data hp hc hx16]
    by_cases hpend : x < pcnt
    · have hdata : decide (pcnt ≤ x) = false := by simpa using hpend
      simp [hpend, hdata, show x < 8 by omega, byteBits_getElem,
        -BitVec.getLsbD_eq_getElem]
    · have hold : (decide (x < 8) && pbits.getLsbD (7 - x)) = false := by
        by_cases h8 : x < 8
        · rw [hlow x (by omega) h8, Bool.and_false]
        · simp [h8]
      rw [hold, Bool.false_or, decide_eq_true (by omega : pcnt ≤ x), Bool.true_and]
      by_cases hnew : x - pcnt < count
      · simp [List.getElem_append, hpend, hnew, show x - pcnt < 8 by omega, show min pcnt 8 = pcnt by omega,
          byteBits_getElem, -BitVec.getLsbD_eq_getElem]
      · simp [List.getElem_append, hpend, hnew, show min pcnt 8 = pcnt by omega,
          show min count 8 = count by omega]

/-- Of a byte whose stream ends in zeros nothing stands below the bits before them. -/
theorem and_not_himask_of_stream {b : Byte} {l : List Bool} {n : Nat} (h : byteBits b = l ++ List.replicate n false) :
    b &&& ~~~ himask l.length = 0#8 := by
  have hlen : l.length + n = 8 := by simpa using (congrArg List.length h).symm
  refine (and_not_himask_eq_zero_iff b (by omega)).2 fun j hj h8 => ?_
  rw [← byteBits_getElem b (by simpa using h8)]
  simp [h, List.getElem_append_right hj]

section
variable (pbits data : Byte) {pcnt count : Nat} (hp : pcnt < 8) (hc : count ≤ 8)
  (hzero : pbits &&& ~~~ himask pcnt = 0#8)
include hp hc hzero

/-- Less than a byte: the window's top byte is the new accumulator. -/
theorem writeShift_pending (h : pcnt + count < 8) :
    (byteBits ((writeShift pbits pcnt count data).extractLsb' 8 8)).take (pcnt + count) =
        (byteBits pbits).take pcnt ++ (byteBits data).take count ∧
      (writeShift pbits pcnt count data).extractLsb' 8 8 &&& ~~~ himask (pcnt + count) = 0#8 := by
  have hlen : ((byteBits pbits).take pcnt ++ (byteBits data).take count).length = pcnt + count := by simp; omega
  have hstream := congrArg (List.take 8) (writeShift_stream pbits data hp hc hzero)
  rw [List.take_left' (byteBits_length _), List.take_append, hlen, List.take_of_length_le (by omega),
    List.take_replicate] at hstream
  refine ⟨?_, hlen ▸ and_not_himask_of_stream hstream⟩
  rw [hstream, List.take_left' hlen]

/-- A byte and more: the window's top byte is sent, its low byte is the new accumulator. -/
theorem writeShift_sent (h : 8 ≤ pcnt + count) :
    byteBits ((writeShift pbits pcnt count data).extractLsb' 8 8) ++
        (byteBits ((writeShift pbits pcnt count data).extractLsb' 0 8)).take (pcnt + count - 8) =
        (byteBits pbits).take pcnt ++ (byteBits data).take count ∧
      (writeShift pbits pcnt count data).extractLsb' 0 8 &&& ~~~ himask (pcnt + count - 8) = 0#8 := by
  have hlen : ((byteBits pbits).take pcnt ++ (byteBits data).take count).length = pcnt + count := by simp; omega
  have hstream := writeShift_stream pbits data hp hc hzero
  constructor
  · have hall := congrArg (List.take (pcnt + count)) hstream
    rwa [List.take_left' hlen, List.take_append, byteBits_length, List.take_of_length_le (by simpa using h)] at hall
  · have hlow := congrArg (List.drop 8) hstream
    rw [List.drop_left' (byteBits_length _), List.drop_append_of_le_length (hlen ▸ h)] at hlow
    have hlenlow : (((byteBits pbits).take pcnt ++ (byteBits data).take count).drop 8).length = pcnt + count - 8 := by
      rw [List.length_drop, hlen]
    exact hlenlow ▸ and_not_himask_of_stream hlow

/-- The byte sent is the first eight of the pending bits and the data's (R117). -/
theorem writeShift_sentByte (h : 8 ≤ pcnt + count) :
    byteBits ((writeShift pbits pcnt count data).extractLsb' 8 8) =
      ((byteBits pbits).take pcnt ++ byteBits data).take 8 := by
  have hall := congrArg (List.take 8) (writeShift_sent pbits data hp hc hzero h).1
  rw [List.take_left' (byteBits_length _)] at hall
  have hlen : ((byteBits pbits).take pcnt).length = pcnt := by simp; omega
  have hmin : min (8 - pcnt) count = 8 - pcnt := by omega
  rw [hall, List.take_append, List.take_append, hlen, List.take_take (i := 8 - pcnt), hmin]

end

/-- `writeBits` that reports OK has accepted its bits behind those accepted before (R38 (c), R117). -/
theorem writeBits_accepts {count n : Nat} {data : Byte} {s t : State} (hs : s.chPoison = false) (ha : s.accumulatorOk)
    (hc : count ≤ 8) (h : writeBits count data s = (.sent n .ok, t)) :
    t.writtenBits = s.writtenBits ++ (byteBits data).take count ∧ t.accumulatorOk ∧
    t.pcnt.toNat = (s.pcnt.toNat + count) % 8 ∧
    t.stores.ws.len = s.stores.ws.len + (s.pcnt.toNat + count) / 8 ∧
    n = if 8 ≤ s.pcnt.toNat + count then 8 else 0 := by
  have hp : s.pcnt.toNat < 8 := s.pcnt.isLt
  rcases writeBits_cases count data s with ⟨h8, e⟩ | ⟨h8, _, e⟩ | ⟨_, _, _, e⟩ | ⟨_, _, _, e⟩ <;> rw [e] at h <;>
    simp only [Prod.mk.injEq, BitWrite.sent.injEq, reduceCtorEq, and_false, and_true, false_and] at h
  · obtain ⟨rfl, rfl⟩ := h
    obtain ⟨hbits, hlow⟩ := writeShift_pending s.pbits data hp hc (ha hs) h8
    have hcnt : (BitVec.ofNat 3 (s.pcnt.toNat + count)).toNat = s.pcnt.toNat + count := Nat.mod_eq_of_lt h8
    refine ⟨?_, fun _ => ?_, ?_, ?_, by simp [Nat.not_le.2 h8]⟩
    · simp [State.writtenBits, hcnt, hbits]
    · simpa [hcnt] using hlow
    · simp
    · simp [Nat.div_eq_of_lt h8]
  · obtain ⟨rfl, rfl⟩ := h
    obtain ⟨hbits, hlow⟩ := writeShift_sent s.pbits data hp hc (ha hs) h8
    have hcnt : (BitVec.ofNat 3 (s.pcnt.toNat + count - 8)).toNat = s.pcnt.toNat + count - 8 :=
      Nat.mod_eq_of_lt (by omega)
    refine ⟨?_, fun _ => ?_, ?_, ?_, by simp [h8]⟩
    · simp only [State.writtenBits, setPending_pbits, setPending_pcnt, setPending_stores, hcnt, land_stores, if_true,
        wrNext_stores, stores_append_ws, append_bytes, streamBits_append_byte, List.append_assoc, hbits]
    · simpa [hcnt] using hlow
    · simp only [setPending_pcnt, hcnt]; omega
    · simp; omega

/-- `writeBits` reports OK where no byte is sent or the store takes it. -/
theorem writeBits_ok {count : Nat} {data : Byte} {s : State} (h : s.pcnt.toNat + count < 8 ∨ s.nextAppend = .ok) :
    ∃ n t, writeBits count data s = (.sent n .ok, t) := by
  rcases writeBits_cases count data s with ⟨_, e⟩ | ⟨_, _, e⟩ | ⟨h8, _, ha, _⟩ | ⟨h8, _, ha, _⟩
  · exact ⟨_, _, e⟩
  · exact ⟨_, _, e⟩
  all_goals
    rcases h with h | h
    · omega
    · rw [ha] at h; cases h

/-- Settles O18: the run is one `writeBits` that reports OK. -/
theorem wrbitsAcceptsBits : Obligations.WrbitsAcceptsBits := by
  intro s count data h1 h8 hs ha hroom
  obtain ⟨n, t, e⟩ := writeBits_ok (data := data) hroom
  obtain ⟨hbits, hacc, hcnt, hlen, hn⟩ := writeBits_accepts hs ha h8 e
  obtain ⟨hframe, hturn, _, hpoison⟩ := writeBits_frame count.toNat data s hs
  rw [e] at hframe hturn hpoison
  have hrun : exec (.wrbits count data) s = .next (t.respond .ok n 0 0 0) := by
    rw [exec_wrbits_run data h1 h8 hs, e]; rfl
  have ht : t.chPoison = false := by simpa using hpoison
  have hsent : (BitVec.ofNat 16 n).toNat = if 8 ≤ s.pcnt.toNat + count.toNat then 8 else 0 := by
    rw [hn]; split <;> rfl
  exact ⟨_, hrun, hbits, hcnt, hacc, hlen, ⟨rfl, hsent, rfl, rfl, rfl⟩, ht, hframe.respond .., hturn⟩

end Sys2Proof.Machine
end

section
/-! PROOFS. The table as a sorted list of canonical entries: the order of keys (R151), where a new key goes (R154), and
what ADDINC writes (R157, R159). -/

namespace Sys2Proof.Machine

/-! ### The order of keys -/

/-- Two numbers compared, and a further comparison where they are equal. -/
theorem ite_lt_eq_then (m n : Nat) (o : Ordering) :
    (if m < n then .lt else if n < m then .gt else o) = (compare m n).then o := by
  rcases Nat.lt_trichotomy m n with h | rfl | h
  · rw [if_pos h, Nat.compare_eq_lt.2 h]; rfl
  · rw [if_neg (Nat.lt_irrefl m), if_neg (Nat.lt_irrefl m), Nat.compare_eq_eq.2 rfl]; rfl
  · rw [if_neg (Nat.lt_asymm h), if_pos h, Nat.compare_eq_gt.2 h]; rfl

/-- `cmpbytes` compares the first bytes, and the rest where they are equal. -/
theorem cmpbytes_cons (a b : Byte) (as bs : List Byte) :
    cmpbytes (a :: as) (b :: bs) = (compare a.toNat b.toNat).then (cmpbytes as bs) := by
  rw [cmpbytes, ite_lt_eq_then]

theorem cmpbytes_eq_iff : ∀ a b : List Byte, cmpbytes a b = .eq ↔ a = b
  | [], [] => by simp [cmpbytes]
  | [], _ :: _ => by simp [cmpbytes]
  | _ :: _, [] => by simp [cmpbytes]
  | a :: as, b :: bs => by
    rw [cmpbytes_cons, Ordering.then_eq_eq, Nat.compare_eq_eq, BitVec.toNat_inj, cmpbytes_eq_iff as bs, List.cons.injEq]

theorem cmpbytes_swap : ∀ a b : List Byte, (cmpbytes a b).swap = cmpbytes b a
  | [], [] => rfl
  | [], _ :: _ => rfl
  | _ :: _, [] => rfl
  | a :: as, b :: bs => by
    rw [cmpbytes_cons, cmpbytes_cons, Ordering.swap_then, Nat.compare_swap, cmpbytes_swap as bs]

theorem cmpbytes_lt_trans : ∀ {a b c : List Byte}, cmpbytes a b = .lt → cmpbytes b c = .lt → cmpbytes a c = .lt
  | [], [], _, h, _ => by simp [cmpbytes] at h
  | [], _ :: _, [], _, h => by simp [cmpbytes] at h
  | [], _ :: _, _ :: _, _, _ => rfl
  | _ :: _, [], _, h, _ => by simp [cmpbytes] at h
  | _ :: _, _ :: _, [], _, h => by simp [cmpbytes] at h
  | a :: as, b :: bs, c :: cs, hab, hbc => by
    rw [cmpbytes_cons, Ordering.then_eq_lt, Nat.compare_eq_lt, Nat.compare_eq_eq] at hab hbc ⊢
    rcases hab with hab | ⟨hab, hab'⟩ <;> rcases hbc with hbc | ⟨hbc, hbc'⟩
    · exact .inl (by omega)
    · exact .inl (by omega)
    · exact .inl (by omega)
    · exact .inr ⟨hab.trans hbc, cmpbytes_lt_trans hab' hbc'⟩

/-- `cmpkey` compares the bytes, and the widths where the bytes are equal. -/
theorem cmpkey_eq_then (a b : Key) : cmpkey a b = (cmpbytes a.1 b.1).then (compare a.2.toNat b.2.toNat) := by
  unfold cmpkey
  cases cmpbytes a.1 b.1 with
  | lt => rfl
  | gt => rfl
  | eq => exact (ite_lt_eq_then _ _ .eq).trans Ordering.then_eq

theorem cmpkey_eq_iff (a b : Key) : cmpkey a b = .eq ↔ a = b := by
  rw [cmpkey_eq_then, Ordering.then_eq_eq, cmpbytes_eq_iff, Nat.compare_eq_eq, BitVec.toNat_inj, Prod.ext_iff]

theorem cmpkey_swap (a b : Key) : (cmpkey a b).swap = cmpkey b a := by
  rw [cmpkey_eq_then, cmpkey_eq_then, Ordering.swap_then, cmpbytes_swap, Nat.compare_swap]

theorem cmpkey_lt_trans {a b c : Key} (hab : cmpkey a b = .lt) (hbc : cmpkey b c = .lt) : cmpkey a c = .lt := by
  rw [cmpkey_eq_then, Ordering.then_eq_lt, cmpbytes_eq_iff, Nat.compare_eq_lt] at *
  rcases hab with hab | ⟨hab, hab'⟩ <;> rcases hbc with hbc | ⟨hbc, hbc'⟩
  · exact .inl (cmpbytes_lt_trans hab hbc)
  · exact .inl (hbc ▸ hab)
  · exact .inl (hab ▸ hbc)
  · exact .inr ⟨hab.trans hbc, hab'.trans hbc'⟩

/-- Of two different keys one comes first. -/
theorem cmpkey_lt_of_not_lt {a b : Key} (hne : cmpkey a b ≠ .eq) (hlt : cmpkey b a ≠ .lt) : cmpkey a b = .lt := by
  rw [← cmpkey_swap a b] at hlt
  cases h : cmpkey a b with
  | lt => rfl
  | eq => exact absurd h hne
  | gt => rw [h] at hlt; exact absurd rfl hlt

theorem cmpkey_not_lt_of_lt {a b : Key} (h : cmpkey a b = .lt) : cmpkey b a ≠ .lt := by
  rw [← cmpkey_swap a b, h]; decide

/-! ### A new key in a sorted table -/

/-- The number of entries less than a key not in the table is its insertion point: the entries before it are less, those
after it greater (R154). -/
theorem sortedEntries_split {k : Key} {es : List Entry} (hs : sortedEntries es)
    (hk : ∀ e ∈ es, cmpkey k e.key ≠ .eq) :
    (∀ e ∈ es.take (es.countP fun e => cmpkey e.key k == .lt), cmpkey e.key k = .lt) ∧
    (∀ e ∈ es.drop (es.countP fun e => cmpkey e.key k == .lt), cmpkey k e.key = .lt) := by
  induction es with
  | nil => simp
  | cons e es ih =>
    obtain ⟨hlater, hs'⟩ := List.pairwise_cons.1 hs
    obtain ⟨hke, hk'⟩ := List.forall_mem_cons.1 hk
    by_cases hlt : cmpkey e.key k = .lt
    · rw [List.countP_cons_of_pos (by simp [hlt]), List.take_succ_cons, List.drop_succ_cons, List.forall_mem_cons]
      exact ⟨⟨hlt, (ih hs' hk').1⟩, (ih hs' hk').2⟩
    · have hbefore : cmpkey k e.key = .lt := cmpkey_lt_of_not_lt hke hlt
      have hall : ∀ e' ∈ e :: es, cmpkey k e'.key = .lt :=
        List.forall_mem_cons.2 ⟨hbefore, fun e' he' => cmpkey_lt_trans hbefore (hlater e' he')⟩
      have hzero : (e :: es).countP (fun e => cmpkey e.key k == .lt) = 0 :=
        List.countP_eq_zero.2 fun e' he' => by simpa using cmpkey_not_lt_of_lt (hall e' he')
      rw [hzero]
      exact ⟨by simp, hall⟩

/-- A new entry at its key's insertion point keeps the table sorted (R33, R159). -/
theorem sortedEntries_insertEntry {e : Entry} {es : List Entry} {p : Nat} (hs : sortedEntries es)
    (hsearch : search e.key es = (false, p)) : sortedEntries (insertEntry p e es) := by
  rcases search_cases e.key es with ⟨i, hi, hfound, _⟩ | ⟨hnone, hpoint⟩
  · rw [hfound] at hsearch; cases hsearch
  obtain rfl : es.countP (fun e' => cmpkey e'.key e.key == .lt) = p := congrArg Prod.snd (hpoint.symm.trans hsearch)
  obtain ⟨hbefore, hafter⟩ := sortedEntries_split hs hnone
  have hparts := hs
  rw [sortedEntries, ← List.take_append_drop (es.countP fun e' => cmpkey e'.key e.key == .lt) es,
    List.pairwise_append] at hparts
  obtain ⟨htake, hdrop, hcross⟩ := hparts
  refine List.pairwise_append.2 ⟨htake, List.pairwise_cons.2 ⟨hafter, hdrop⟩, fun a ha b hb => ?_⟩
  rcases List.mem_cons.1 hb with rfl | hb
  · exact hbefore a ha
  · exact hcross a ha b hb

theorem mem_insertEntry {p : Nat} {e x : Entry} {es : List Entry} : x ∈ insertEntry p e es ↔ x = e ∨ x ∈ es := by
  have hparts : x ∈ es ↔ x ∈ es.take p ∨ x ∈ es.drop p := by
    rw [← List.mem_append, List.take_append_drop]
  rw [insertEntry, List.mem_append, List.mem_cons, hparts]
  tauto

/-- The order speaks of keys alone. -/
theorem sortedEntries_set {es : List Entry} {p : Nat} {e : Entry} (hs : sortedEntries es)
    (hkey : ∀ h : p < es.length, e.key = es[p].key) : sortedEntries (es.set p e) := by
  have hkeys : (es.set p e).map Entry.key = es.map Entry.key := by
    rw [List.map_set]
    apply List.ext_getElem (by simp)
    intro i h1 h2
    rw [List.getElem_set]
    split
    · next h => subst h; simpa using hkey (by simpa using h2)
    · rfl
  have hpair := (List.pairwise_map (f := Entry.key) (R := fun a b => cmpkey a b = .lt)).2 hs
  rw [← hkeys] at hpair
  exact List.pairwise_map.1 hpair

/-! ### Canonical patterns -/

theorem canon_getD (B : List Byte) {w i : Nat} (hi : i < ceil8 w) : (canon B w).getD i 0 =
    if i + 1 = ceil8 w then B.getD i 0 &&& himask (lastbits w) else B.getD i 0 := by
  simp [canon, List.getD_eq_getElem?_getD, hi]

/-- What is in canonical form stays as it is (R13, R27). -/
theorem canon_canon (B : List Byte) (w : Nat) : canon (canon B w) w = canon B w := by
  refine List.map_congr_left fun i hi => ?_
  rw [canon_getD B (List.mem_range.1 hi)]
  split
  · rw [BitVec.and_assoc, BitVec.and_self]
  · rfl

/-- An entry that is counted once more is as R30 says: the count has not wrapped (R157). -/
theorem Entry.ok.counted {p : Params} {e : Entry} (h : e.ok p) (hc : e.count ≠ 0xFFFFFFFF#32) :
    Entry.ok p { e with count := e.count + 1 } := by
  obtain ⟨h1, h2, hpat, _⟩ := h
  refine ⟨h1, h2, hpat, ?_⟩
  have hlt : e.count.toNat ≠ 0xFFFFFFFF := fun h => hc (BitVec.eq_of_toNat_eq h)
  have := e.count.isLt
  have hone : (1 : BitVec 32).toNat = 1 := rfl
  rw [BitVec.toNat_add, hone]
  omega

/-- The entry ADDINC makes of the buffer's key (R159). -/
theorem cbKey_entry_ok {s : State} {w : BitVec 16} (hw : widthOk s.par w = true) :
    Entry.ok s.par { pat := (s.cbKey w).1, width := (s.cbKey w).2, count := 1 } := by
  simp only [widthOk, Bool.and_eq_true, decide_eq_true_eq] at hw
  exact ⟨hw.1, hw.2, (canon_canon _ _).symm, Nat.le_refl 1⟩

/-! ### The table after ADDINC -/

/-- The table's registers changed, all else as it was. -/
def State.withTable (s : State) (ent : List Entry) (tsize tcap : BitVec 25) : State :=
  { s with ent := ent, tsize := tsize, tcap := tcap }

theorem setEntries_eq_withTable (s : State) (es : List Entry) :
    s.setEntries es = s.withTable (es ++ s.ent.drop es.length) (BitVec.ofNat 25 es.length) s.tcap := rfl

theorem grow_setEntries_eq_withTable (s : State) (es : List Entry) : s.grow.setEntries es =
    s.withTable (es ++ s.ent.drop es.length) (BitVec.ofNat 25 es.length) s.grow.tcap := by
  unfold State.grow; split <;> rfl

/-- One entry counted: the entry's key stays, so the order does (R157). -/
theorem counted_tableOk {s : State} {w : BitVec 16} {p : Nat} (h : s.tableOk)
    (hsearch : search (s.cbKey w) s.entries = (true, p)) (hcount : (s.slot p).count ≠ 0xFFFFFFFF#32) :
    (s.setEntries (s.entries.set p { s.slot p with count := (s.slot p).count + 1 })).tableOk := by
  obtain ⟨⟨hle, hpow, hleast⟩, hsorted, hok⟩ := h
  have hp : p < s.entries.length := by
    rcases search_cases (s.cbKey w) s.entries with ⟨i, hi, e, _⟩ | ⟨_, e⟩ <;> rw [hsearch] at e <;> cases e
    exact hi
  have hslot : s.entries[p] = s.slot p := entries_getElem s p hp
  have hsize :
      BitVec.ofNat 25 (s.entries.set p { s.slot p with count := (s.slot p).count + 1 }).length = s.tsize := by
    simp
  refine ⟨?_, ?_, ?_⟩
  · simpa only [State.capacityOk, setEntries_tsize, setEntries_tcap, setEntries_par, hsize] using ⟨hle, hpow, hleast⟩
  all_goals rw [setEntries_entries _ _ (by simpa using s.tsize.isLt)]
  · exact sortedEntries_set hsorted fun _ => by rw [hslot]; rfl
  · intro e he
    rcases List.mem_or_eq_of_mem_set he with he | rfl
    · exact hok e he
    · exact (hslot ▸ hok _ (List.getElem_mem hp)).counted hcount

/-- The capacity after an insertion: where the table was full it doubles, which `TABLE_LOG2` allows (R159). -/
theorem grow_capacity {s : State} (hpar : s.par.wf) (h : s.capacityOk) (hfull : s.tableFull = false) :
    s.tsize.toNat + 1 ≤ s.grow.tcap.toNat ∧
    s.grow.tcap.toNat ∈ (List.range (s.par.tableLog2 + 1)).map (2 ^ ·) ∧
    (s.grow.tcap.toNat = 1 ∨ s.grow.tcap.toNat < 2 * (s.tsize.toNat + 1)) := by
  obtain ⟨hle, hpow, hleast⟩ := h
  rw [grow_tcap]
  by_cases hfit : s.tsize = s.tcap
  · obtain ⟨n, hn, hcap⟩ := List.mem_map.1 hpow
    have hcap' : 2 ^ n = s.tcap.toNat := hcap
    have hroom : 2 * s.tcap.toNat ≤ tableMax s.par := by simpa [State.tableFull, hfit] using hfull
    have hnle : n + 1 ≤ s.par.tableLog2 := by
      rw [← hcap', ← pow_succ', tableMax] at hroom
      exact (Nat.pow_le_pow_iff_right (by decide)).1 hroom
    have hbound : tableMax s.par ≤ 2 ^ 24 := Nat.pow_le_pow_right (by decide) hpar.2.2
    have hdouble : (BitVec.ofNat 25 (2 * s.tcap.toNat)).toNat = 2 * s.tcap.toNat := Nat.mod_eq_of_lt (by omega)
    have hpos : 0 < s.tcap.toNat := hcap' ▸ Nat.two_pow_pos n
    rw [if_pos hfit, hdouble, hfit]
    refine ⟨by omega, List.mem_map.2 ⟨n + 1, List.mem_range.2 (by omega), ?_⟩, .inr (by omega)⟩
    rw [← hcap']; exact pow_succ' 2 n
  · have hne : s.tsize.toNat ≠ s.tcap.toNat := fun e => hfit (BitVec.eq_of_toNat_eq e)
    rw [if_neg hfit]
    exact ⟨by omega, hpow, by omega⟩

/-- An entry inserted at its key's place (R33, R159). -/
theorem inserted_tableOk {s : State} {e : Entry} {p : Nat} (hpar : s.par.wf) (h : s.tableOk) (he : e.ok s.par)
    (hsearch : search e.key s.entries = (false, p)) (hfull : s.tableFull = false) :
    (s.grow.setEntries (insertEntry p e s.entries)).tableOk := by
  obtain ⟨hcap, hsorted, hok⟩ := h
  obtain ⟨hroom, hpow, hleast⟩ := grow_capacity hpar hcap hfull
  have hlen : (insertEntry p e s.entries).length = s.tsize.toNat + 1 := by simp
  have hfits : s.tsize.toNat + 1 < 2 ^ 25 := Nat.lt_of_le_of_lt hroom s.grow.tcap.isLt
  have hsize : (BitVec.ofNat 25 (insertEntry p e s.entries).length).toNat = s.tsize.toNat + 1 := by
    rw [hlen]; exact Nat.mod_eq_of_lt hfits
  refine ⟨?_, ?_, ?_⟩
  · simpa only [State.capacityOk, setEntries_tsize, setEntries_tcap, setEntries_par, grow_par, hsize] using
      ⟨hroom, hpow, hleast⟩
  all_goals rw [setEntries_entries _ _ (hlen ▸ hfits)]
  · exact sortedEntries_insertEntry hsorted hsearch
  · intro x hx
    rw [setEntries_par, grow_par]
    rcases mem_insertEntry.1 hx with rfl | hx
    · exact he
    · exact hok x hx

end Sys2Proof.Machine
end

section
/-! PROOFS. Every step keeps the invariant: each update of the state does, so each run of the channel and each other
effect does, so a command does, so a step does (R25, R28, R31, R33, R61, R190). -/

namespace Sys2Proof.Machine

/-! ### The updates of the state -/

theorem code_le (st : Status) : st.code.toNat ≤ 10 := by cases st <;> decide

section
variable {s : State} (h : s.Inv)
include h

theorem respond_inv (st : Status) (n : Nat) (b : Byte) (v : BitVec 32) (x : Nat) : (s.respond st n b v x).Inv :=
  let ⟨hpar, hcb, hacc, htab, _, hrest⟩ := h
  ⟨hpar, hcb, hacc, htab, code_le st, hrest⟩

theorem waitFor_inv {a : Agent} (ha : a ≠ .core) : (s.waitFor a).Inv :=
  let ⟨hpar, hcb, hacc, htab, hstat, hst, hq, hans, _⟩ := h
  ⟨hpar, hcb, hacc, htab, hstat, hst, hq, hans, ha⟩

theorem poison_inv : s.poison.Inv :=
  let ⟨hpar, hcb, _, hrest⟩ := h
  ⟨hpar, hcb, fun hp => Bool.noConfusion hp, hrest⟩

theorem advance_inv (n : Nat) : (s.advance n).Inv := h

theorem fatal_inv : s.fatal.Inv := h

theorem srDrawn_inv (sel : Nat) : (s.srDrawn sel).Inv := by
  unfold State.srDrawn
  split <;> exact h

theorem setCb_inv (i : Nat) (b : Byte) : (s.setCb i b).Inv :=
  let ⟨hpar, hcb, hrest⟩ := h
  ⟨hpar, (List.length_set ..).trans hcb, hrest⟩

theorem fillCb_inv (bs : List Byte) : (s.fillCb bs).Inv :=
  let ⟨hpar, hcb, hrest⟩ := h
  ⟨hpar, (fillCb_length s bs).trans hcb, hrest⟩

theorem setPending_inv {b : Byte} {n : Nat}
    (hb : s.chPoison = false → b &&& ~~~ himask (BitVec.ofNat 3 n).toNat = 0#8) : (s.setPending b n).Inv :=
  let ⟨hpar, hcb, _, hrest⟩ := h
  ⟨hpar, hcb, hb, hrest⟩

theorem clearChannel_inv : s.clearChannel.Inv :=
  let ⟨hpar, hcb, _, hrest⟩ := h
  ⟨hpar, hcb, accumulatorOk_of_pbits_eq_zero rfl, hrest⟩

theorem withTable_inv {ent : List Entry} {tsize tcap : BitVec 25} (ht : (s.withTable ent tsize tcap).tableOk) :
    (s.withTable ent tsize tcap).Inv :=
  let ⟨hpar, hcb, hacc, _, hrest⟩ := h
  ⟨hpar, hcb, hacc, ht, hrest⟩

theorem clearTable_inv : s.clearTable.Inv :=
  let ⟨hpar, hcb, hacc, _, hrest⟩ := h
  ⟨hpar, hcb, hacc, tableOk_of_empty rfl rfl, hrest⟩

/-- What another party makes of RS is a store that R61 allows (R72). -/
theorem rdNext_inv : s.rdNext.Inv := by
  obtain ⟨hpar, hcb, hacc, htab, hstat, hst, hq, hans, hturn⟩ := h
  refine ⟨hpar, hcb, hacc, htab, hstat, ?_, hq, fun a ha => hans a (List.mem_of_mem_tail ha), hturn⟩
  rcases rdNext_stores_cases s with ⟨_, e⟩ | ⟨rs, _, _, hmem, e⟩ <;> rw [e]
  · exact hst
  · exact withRs_wf hst (of_decide_eq_true (hans _ hmem))

/-- A byte lands only where there is room for it (R61, R63). -/
theorem land_inv {l : Bool} (b : Byte) (hl : l = true → s.canTake 1) : (s.wrNext.land l b).Inv := by
  obtain ⟨hpar, hcb, hacc, htab, hstat, hst, hrest⟩ := h
  refine ⟨hpar, hcb, hacc, htab, hstat, ?_, hrest⟩
  cases l with
  | false => exact hst
  | true => exact stores_append_wf hst (hl rfl Nat.one_pos).2 b

theorem taken_inv {e : HostEvent} {q : List HostEvent} (hhost : s.hostq = e :: q) : (s.taken q).Inv :=
  let ⟨hpar, hcb, hacc, htab, hstat, hst, hq, hrest⟩ := h
  ⟨hpar, hcb, hacc, htab, hstat, hst, fun e' he' => hq e' (hhost ▸ List.mem_cons_of_mem _ he'), hrest⟩

theorem bound_inv {st : Stores} (hst : st.wf) (r w : Bool) : (s.bound st r w).Inv :=
  let ⟨hpar, hcb, hacc, htab, hstat, _, hrest⟩ := h
  ⟨hpar, hcb, hacc, htab, hstat, hst, hrest⟩

theorem hardReset_inv {cbInit : List Byte} (hcb : cbInit.length = pbMax s.par) : (s.hardReset cbInit).Inv :=
  let ⟨hpar, _, _, _, _, hst, hq, hans, _⟩ := h
  ⟨hpar, hcb, accumulatorOk_of_pbits_eq_zero rfl, tableOk_of_empty rfl rfl, Nat.zero_le 10, hst, hq, hans,
    Agent.noConfusion⟩

/-! ### The runs of the channel -/

theorem readBits_inv (count : Nat) : (readBits count s).2.Inv := by
  rcases readBits_cases count s with ⟨_, e⟩ | ⟨_, _, e⟩ | ⟨_, _, e⟩ | ⟨_, _, _, _, _, _, _, _, e⟩ <;> rw [e]
  · exact poison_inv h
  · exact poison_inv (rdNext_inv h)
  · exact rdNext_inv h
  · exact advance_inv (rdNext_inv h) _

/-- The shifter leaves zeros below the pending bits (R25, R117). -/
theorem writeBits_inv {count : Nat} (data : Byte) (hc : count ≤ 8) : (writeBits count data s).2.Inv := by
  have ⟨_, _, hacc, _⟩ := h
  have hp : s.pcnt.toNat < 8 := s.pcnt.isLt
  rcases writeBits_cases count data s with ⟨h8, e⟩ | ⟨h8, ha, e⟩ | ⟨_, l, ha, e⟩ | ⟨_, l, ha, e⟩ <;> rw [e]
  · have hcnt : (BitVec.ofNat 3 (s.pcnt.toNat + count)).toNat = s.pcnt.toNat + count := Nat.mod_eq_of_lt h8
    exact setPending_inv h fun hs => by rw [hcnt]; exact (writeShift_pending s.pbits data hp hc (hacc hs) h8).2
  · have hcnt : (BitVec.ofNat 3 (s.pcnt.toNat + count - 8)).toNat = s.pcnt.toNat + count - 8 :=
      Nat.mod_eq_of_lt (by omega)
    refine setPending_inv (land_inv h _ fun _ => canTake_of_lands (.inl ha)) fun hs => ?_
    rw [hcnt]
    exact (writeShift_sent s.pbits data hp hc (hacc hs) h8).2
  · exact poison_inv (land_inv h _ fun hl => canTake_of_lands (.inr (.inl (hl ▸ ha))))
  · exact land_inv h _ fun hl => canTake_of_lands (.inr (.inr (hl ▸ ha)))

end

theorem readLoop_inv {reqs : List Nat} (i total : Nat) {s : State} (h : s.Inv) : (readLoop reqs i total s).2.Inv := by
  induction reqs generalizing i total s with
  | nil => exact h
  | cons req reqs ih =>
    have hread := readBits_inv h req
    rw [readLoop]
    rcases hr : readBits req s with ⟨_ | _, t⟩ <;> rw [hr] at hread
    · simp only
      split_ifs
      · exact hread
      · exact setCb_inv hread ..
      · exact ih _ _ (setCb_inv hread ..)
    · exact hread

theorem writeLoop_inv {reqs : List Nat} (hreqs : ∀ req ∈ reqs, req ≤ 8) (i total : Nat) {s : State} (h : s.Inv) :
    (writeLoop reqs i total s).2.Inv := by
  induction reqs generalizing i total s with
  | nil => exact h
  | cons req reqs ih =>
    obtain ⟨hreq, hreqs'⟩ := List.forall_mem_cons.1 hreqs
    have hwrite := writeBits_inv h (s.cbByte i) hreq
    rw [writeLoop]
    rcases hr : writeBits req (s.cbByte i) s with ⟨_ | _, t⟩ <;> rw [hr] at hwrite
    · simp only
      split_ifs
      · exact hwrite
      · exact ih hreqs' _ _ hwrite
    · exact hwrite

theorem le_of_mem_chunkReqs {w req : Nat} (h : req ∈ chunkReqs w) : req ≤ 8 := by
  obtain ⟨i, _, rfl⟩ := List.mem_map.1 h
  exact Nat.min_le_right ..

theorem endRead_inv {r : BitRead × State} (h : r.2.Inv) : (endRead r).Inv := by
  rcases r with ⟨_ | _, t⟩
  · exact respond_inv h ..
  · exact waitFor_inv h (by decide)

theorem endWrite_inv {r : BitWrite × State} (h : r.2.Inv) : (endWrite r).Inv := by
  rcases r with ⟨_ | _, t⟩
  · exact respond_inv h ..
  · exact waitFor_inv h (by decide)

theorem endChunk_inv {r : ChunkEnd × State} {a : Agent} (f : Nat → Status) (ha : a ≠ .core) (h : r.2.Inv) :
    (endChunk a f r).Inv := by
  rcases r with ⟨_ | _ | _, t⟩
  · exact respond_inv h ..
  · exact respond_inv h ..
  · exact waitFor_inv h ha

theorem padPending_inv {s : State} (h : s.Inv) : (padPending s).2.Inv := writeBits_inv h 0 (Nat.sub_le ..)

/-- A channel command that passes its checks keeps the invariant. -/
theorem channelRun_inv {i : Instr} {s : State} (h : s.Inv) (hchecks : channelAnswer s i = none) :
    (channelRun s i).Inv := by
  cases i with
  | rdbits count => exact endRead_inv (readBits_inv h _)
  | wrbits count data =>
    have hcount : count.toNat ≤ 8 := by
      by_contra hc
      simp [channelAnswer, countOk, hc] at hchecks
    refine endWrite_inv ?_
    split
    · exact padPending_inv h
    · exact writeBits_inv h data hcount
  | flush data => exact endWrite_inv (padPending_inv h)
  | rdchunk w => exact endChunk_inv _ (by decide) (readLoop_inv _ _ (fillCb_inv h _))
  | wrchunk w => exact endChunk_inv _ (by decide) (writeLoop_inv (fun _ => le_of_mem_chunkReqs) _ _ h)
  | nop | addinc | tblrd | ldcb | stcb | rdsr | chreset | tblreset => exact h

/-! ### Commands and steps -/

theorem effect_inv {i : Instr} {s u : State} {st : Status} (h : s.Inv) (he : Effect s i st u) : u.Inv := by
  have ⟨hpar, _, _, htab, _⟩ := h
  cases he with
  | kept => exact h
  | bufferByte => exact setCb_inv h ..
  | bufferFront => exact fillCb_inv h _
  | statusRead => exact srDrawn_inv h _
  | channelCleared => exact clearChannel_inv h
  | tableCleared => exact clearTable_inv h
  | tableFailed => exact fatal_inv h
  | counted hsearch hcount =>
    have ht := counted_tableOk htab hsearch hcount
    rw [setEntries_eq_withTable] at ht ⊢
    exact withTable_inv h ht
  | inserted hw hsearch hfull =>
    have ht := inserted_tableOk hpar htab (cbKey_entry_ok hw) hsearch hfull
    rw [grow_setEntries_eq_withTable] at ht ⊢
    exact withTable_inv h ht

theorem exec_inv {i : Instr} {s t : State} (h : s.Inv) (he : exec i s = .next t) : t.Inv := by
  cases hi : i.isChannel with
  | true =>
    rcases channel_cases hi he with ⟨st, _, rfl⟩ | ⟨hchecks, rfl⟩
    · exact respond_inv h ..
    · exact channelRun_inv h hchecks
  | false =>
    obtain ⟨_, _, _, _, _, _, heff, rfl⟩ := effect_cases hi he
    exact respond_inv (effect_inv h heff) ..

/-- Everything a step that answers a next state can do: take the host's next action, or wait for one. -/
theorem step_cases {s t : State} (h : step s = .next t) :
    t = s ∨
    (∃ cbInit q, s.hostq = .rst cbInit :: q ∧ t = (s.taken q).hardReset cbInit) ∨
    (∃ st r w q, s.hostq = .bind st r w :: q ∧ t = (s.taken q).bound st r w) ∨
    (∃ c q, s.hostq = .cmd c :: q ∧ ((∃ i, exec i (s.taken q) = .next t) ∨ t = (s.taken q).illegal)) := by
  unfold step at h
  split at h
  · next cbInit q hq => exact .inr (.inl ⟨cbInit, q, hq, (Host.Outcome.next.inj h).symm⟩)
  · split_ifs at h
    exact .inl (Host.Outcome.next.inj h).symm
  · next st r w q hq =>
    split_ifs at h
    exact .inr (.inr (.inl ⟨st, r, w, q, hq, (Host.Outcome.next.inj h).symm⟩))
  · next c q hq =>
    split_ifs at h
    refine .inr (.inr (.inr ⟨c, q, hq, ?_⟩))
    split at h
    · next i _ => exact .inl ⟨i, h⟩
    · exact .inr (Host.Outcome.next.inj h).symm

/-- Settles O11: a step is an action of the host, and each keeps the invariant; what a reset or a binding brings is
well-formed because the queue is. -/
theorem everyStepKeepsTheInvariant : Obligations.EveryStepKeepsTheInvariant := by
  intro s t h hstep
  have ⟨_, _, _, _, _, _, hq, _⟩ := h
  rcases step_cases hstep with rfl | ⟨cbInit, q, hhost, rfl⟩ | ⟨st, r, w, q, hhost, rfl⟩ | ⟨c, q, hhost, he | rfl⟩
  · exact h
  · exact hardReset_inv (taken_inv h hhost) (of_decide_eq_true (hq (.rst cbInit) (by simp [hhost])))
  · exact bound_inv (taken_inv h hhost) (of_decide_eq_true (hq (.bind st r w) (by simp [hhost]))) r w
  · obtain ⟨i, he⟩ := he
    exact exec_inv (taken_inv h hhost) he
  · exact respond_inv (taken_inv h hhost) ..

end Sys2Proof.Machine
end

section
/-! PROOFS. How commands end: with stores that answer they do, the sticky flags say which failure ended them, and the
cursor has not gone back (R22, R24, R26, R32, R38, R236). -/

namespace Sys2Proof.Machine

/-! ### Which answers keep a command from ending -/

/-- No answer listed for a port is silent. -/
def State.answered (s : State) : Prop := (∀ a ∈ s.rdAns, a ≠ .silent) ∧ ∀ a ∈ s.wrAns, ∀ landed, a ≠ .silent landed

theorem silent_mem_of_nextRead {s : State} (h : s.nextRead = .silent) : .silent ∈ s.rdAns := by
  unfold State.nextRead at h
  split at h
  · cases ha : s.rdAns with
    | nil => simp [ha] at h
    | cons a l => rw [ha] at h; exact h ▸ List.mem_cons_self
  · cases h

theorem silent_mem_of_getD {l : List AppendAnswer} {i : Nat} {landed : Bool} (h : l.getD i .ok = .silent landed) :
    .silent landed ∈ l := by
  rw [List.getD_eq_getElem?_getD] at h
  cases hi : l[i]? with
  | none => simp [hi] at h
  | some a => rw [hi, Option.getD_some] at h; exact h ▸ List.mem_of_getElem? hi

theorem silent_mem_of_nextAppend {s : State} {landed : Bool} (h : s.nextAppend = .silent landed) :
    ∃ l, .silent l ∈ s.wrAns := by
  have h' : s.appendAnswer 0 = .silent landed := h
  rcases appendAnswer_cases s 0 with ⟨_, e⟩ | ⟨_, e | ⟨_, _, l, e⟩⟩
  · exact ⟨landed, silent_mem_of_getD (e.symm.trans h')⟩
  · rw [e] at h'; cases h'
  · exact ⟨l, silent_mem_of_getD e⟩

/-- A read takes its answer off the list, or none where the cursor would overflow. -/
theorem readBits_rdAns_subset (count : Nat) (s : State) : (readBits count s).2.rdAns ⊆ s.rdAns := by
  rcases readBits_cases count s with ⟨_, e⟩ | ⟨_, _, e⟩ | ⟨_, _, e⟩ | ⟨_, _, _, _, _, _, _, _, e⟩ <;> rw [e]
  · exact List.Subset.refl _
  all_goals exact List.tail_subset _

theorem silent_mem_of_readBits {count : Nat} {s : State} (h : (readBits count s).1 = .silent) : .silent ∈ s.rdAns := by
  rcases readBits_cases count s with ⟨_, e⟩ | ⟨_, _, e⟩ | ⟨_, ha, _⟩ | ⟨_, _, _, _, _, _, _, _, e⟩
  · rw [e] at h; cases h
  · rw [e] at h; cases h
  · exact silent_mem_of_nextRead ha
  · rw [e] at h; cases h

theorem silent_mem_of_readLoop {reqs : List Nat} {i total : Nat} {s : State}
    (h : (readLoop reqs i total s).1 = .silent) : .silent ∈ s.rdAns := by
  induction reqs generalizing i total s with
  | nil => cases h
  | cons req reqs ih =>
    have hread := @silent_mem_of_readBits req s
    have hsub := readBits_rdAns_subset req s
    rw [readLoop] at h
    rcases hr : readBits req s with ⟨⟨_, b, _⟩ | _, t⟩ <;> rw [hr] at h hread hsub
    · simp only at h
      split_ifs at h
      exact hsub (ih (s := t.setCb i b) h)
    · exact hread rfl

/-- An append takes its answer off the list. -/
theorem writeBits_wrAns_subset (count : Nat) (data : Byte) (s : State) :
    (writeBits count data s).2.wrAns ⊆ s.wrAns := by
  rcases writeBits_cases count data s with ⟨_, e⟩ | ⟨_, _, e⟩ | ⟨_, _, _, e⟩ | ⟨_, _, _, e⟩ <;> rw [e]
  · exact List.Subset.refl _
  all_goals exact List.tail_subset _

theorem silent_mem_of_writeBits {count : Nat} {data : Byte} {s : State} (h : (writeBits count data s).1 = .silent) :
    ∃ l, .silent l ∈ s.wrAns := by
  rcases writeBits_cases count data s with ⟨_, e⟩ | ⟨_, _, e⟩ | ⟨_, _, _, e⟩ | ⟨_, _, ha, _⟩
  · rw [e] at h; cases h
  · rw [e] at h; cases h
  · rw [e] at h; cases h
  · exact silent_mem_of_nextAppend ha

theorem silent_mem_of_writeLoop {reqs : List Nat} {i total : Nat} {s : State}
    (h : (writeLoop reqs i total s).1 = .silent) : ∃ l, .silent l ∈ s.wrAns := by
  induction reqs generalizing i total s with
  | nil => cases h
  | cons req reqs ih =>
    have hwrite := @silent_mem_of_writeBits req (s.cbByte i) s
    have hsub := writeBits_wrAns_subset req (s.cbByte i) s
    rw [writeLoop] at h
    rcases hr : writeBits req (s.cbByte i) s with ⟨_ | _, t⟩ <;> rw [hr] at h hwrite hsub
    · simp only at h
      split_ifs at h
      obtain ⟨l, hl⟩ := ih h
      exact ⟨l, hsub hl⟩
    · exact hwrite rfl

theorem not_answered_of_rdAns {s : State} (h : .silent ∈ s.rdAns) : ¬ s.answered := fun ha => ha.1 _ h rfl

theorem not_answered_of_wrAns {s : State} (h : ∃ l, .silent l ∈ s.wrAns) : ¬ s.answered := by
  obtain ⟨l, hl⟩ := h
  exact fun ha => ha.2 _ hl l rfl

/-! ### How the run of a channel command ends -/

/-- The run of a channel command from `s` waits in `t` for a store that does not answer, or has responded, and then the
channel is poisoned exactly if the status is IO_FAILURE (R26, R120, R236). -/
def RunEnds (s t : State) : Prop :=
  (¬ s.answered ∧ t.turn ≠ .host ∧ t.chPoison = false) ∨
  ∃ st : Status, t.turn = s.turn ∧ t.rStat = st.code ∧ (t.chPoison = true ↔ st = .ioFailure)

theorem readStatus_ne_ioFailure (want got : Nat) : readStatus want got ≠ .ioFailure := by
  unfold readStatus
  split_ifs <;> simp

theorem endRead_ends {s : State} {r : BitRead × State} (hsilent : r.1 = .silent → ¬ s.answered)
    (hturn : r.2.turn = s.turn) (hpoison : r.2.chPoison = true ↔ ∃ n b, r.1 = .got n b .ioFailure) :
    RunEnds s (endRead r) := by
  rcases r with ⟨⟨n, b, st⟩ | _, t⟩
  · exact .inr ⟨st, hturn, rfl, by simpa [endRead] using hpoison⟩
  · exact .inl ⟨hsilent rfl, by simp [endRead], by simpa [endRead] using hpoison⟩

theorem endWrite_ends {s : State} {r : BitWrite × State} (hsilent : r.1 = .silent → ¬ s.answered)
    (hturn : r.2.turn = s.turn) (hpoison : r.2.chPoison = true ↔ ∃ n, r.1 = .sent n .ioFailure) :
    RunEnds s (endWrite r) := by
  rcases r with ⟨⟨n, st⟩ | _, t⟩
  · exact .inr ⟨st, hturn, rfl, by simpa [endWrite] using hpoison⟩
  · exact .inl ⟨hsilent rfl, by simp [endWrite], by simpa [endWrite] using hpoison⟩

theorem endChunk_ends {s : State} {r : ChunkEnd × State} {a : Agent} {f : Nat → Status} (ha : a ≠ .host)
    (hf : ∀ n, f n ≠ .ioFailure) (hsilent : r.1 = .silent → ¬ s.answered) (hturn : r.2.turn = s.turn)
    (hpoison : r.2.chPoison = true ↔ ∃ n, r.1 = .failed n) : RunEnds s (endChunk a f r) := by
  rcases r with ⟨n | n | _, t⟩
  · exact .inr ⟨f n, hturn, rfl, by simpa [endChunk, hf n] using hpoison⟩
  · exact .inr ⟨.ioFailure, hturn, rfl, by simpa [endChunk] using hpoison⟩
  · exact .inl ⟨hsilent rfl, ha, by simpa [endChunk] using hpoison⟩

theorem endWrite_writeBits_ends (count : Nat) (data : Byte) {s : State} (hs : s.chPoison = false) :
    RunEnds s (endWrite (writeBits count data s)) := by
  obtain ⟨_, hturn, _, hpoison⟩ := writeBits_frame count data s hs
  exact endWrite_ends (fun h => not_answered_of_wrAns (silent_mem_of_writeBits h)) hturn hpoison

theorem channelRun_ends {i : Instr} {s : State} (hi : i.isChannel = true) (hs : s.chPoison = false) :
    RunEnds s (channelRun s i) := by
  cases i with
  | rdbits count =>
    obtain ⟨_, _, hturn, _⟩ := readBits_frame count.toNat s hs
    exact endRead_ends (fun h => not_answered_of_rdAns (silent_mem_of_readBits h)) hturn (readBits_poison _ s hs)
  | wrbits count data =>
    rw [channelRun]
    split
    · exact endWrite_writeBits_ends _ _ hs
    · exact endWrite_writeBits_ends _ _ hs
  | flush => exact endWrite_writeBits_ends _ _ hs
  | rdchunk w =>
    obtain ⟨_, _, _, hturn, _, hpoison⟩ :=
      readLoop_frame (chunkReqs w.toNat) 0 0 (s.fillCb (List.replicate (ceil8 w.toNat) 0)) hs
    exact endChunk_ends (by decide) (readStatus_ne_ioFailure _)
      (fun h => not_answered_of_rdAns (silent_mem_of_readLoop (s := s.fillCb _) h)) hturn hpoison
  | wrchunk w =>
    obtain ⟨_, hturn, _, hpoison⟩ := writeLoop_frame (chunkReqs w.toNat) 0 0 s hs
    exact endChunk_ends (by decide) (by simp) (fun h => not_answered_of_wrAns (silent_mem_of_writeLoop h)) hturn hpoison
  | nop | addinc | tblrd | ldcb | stcb | rdsr | chreset | tblreset => cases hi

/-- Everything that can be said of how a channel command ends. -/
theorem channel_ends {i : Instr} {s t : State} (hi : i.isChannel = true) (h : exec i s = .next t) :
    (∃ st, st ≠ .ioFailure ∧ t = s.reject st) ∨ (s.chPoison = false ∧ RunEnds s t) := by
  rcases channel_cases hi h with ⟨st, hst, rfl⟩ | ⟨hrun, rfl⟩
  · exact .inl ⟨st, fun e => channelAnswer_ne_ioFailure i s (e ▸ hst), rfl⟩
  · have hs := chPoison_of_channelAnswer_eq_none hi hrun
    exact .inr ⟨hs, channelRun_ends hi hs⟩

/-! ### What the other effects leave alone -/

theorem Effect.turn {i : Instr} {s u : State} {st : Status} (h : Effect s i st u) : u.turn = s.turn := by
  cases h <;> simp

/-- Of the other commands CHRESET alone touches the channel (R161, R206). -/
theorem Effect.channel {i : Instr} {s u : State} {st : Status} (h : Effect s i st u) :
    (u.rpos = s.rpos ∧ u.chPoison = s.chPoison) ∨ (i = .chreset ∧ u.chPoison = false) := by
  cases h with
  | channelCleared => exact .inr ⟨rfl, rfl⟩
  | kept | bufferByte | bufferFront | tableCleared | tableFailed | counted => exact .inl ⟨rfl, rfl⟩
  | statusRead | inserted => exact .inl ⟨by simp, by simp⟩

/-- Of the other commands a failing ADDINC sets the table's flag, and TBLRESET clears it (R32). -/
theorem Effect.table {i : Instr} {s u : State} {st : Status} (h : Effect s i st u) :
    (u.tFatal = s.tFatal ∧ st ≠ .resourceExhausted) ∨
    ((∃ w, i = .addinc w) ∧ st = .resourceExhausted ∧ u.tFatal = true) ∨ (i = .tblreset ∧ u.tFatal = false) := by
  cases h with
  | kept hst => exact .inl ⟨rfl, hst⟩
  | bufferByte | bufferFront | statusRead | channelCleared | counted | inserted => exact .inl ⟨by simp, by simp⟩
  | tableFailed w => exact .inr (.inl ⟨⟨w, rfl⟩, rfl, rfl⟩)
  | tableCleared => exact .inr (.inr ⟨rfl, rfl⟩)

/-! ### The obligations -/

/-- Settles O52: a run waits only for an answer that is listed as silent. -/
theorem everyCommandEnds : Obligations.EveryCommandEnds := by
  intro i s hrd hwr
  obtain ⟨t, h⟩ := exec_next i s
  refine ⟨t, h, ?_⟩
  cases hi : i.isChannel with
  | true =>
    rcases channel_ends hi h with ⟨st, _, rfl⟩ | ⟨_, ⟨hsilent, _⟩ | ⟨_, hturn, _⟩⟩
    · rfl
    · exact absurd ⟨hrd, hwr⟩ hsilent
    · exact hturn
  | false =>
    obtain ⟨_, _, _, _, _, _, heff, rfl⟩ := effect_cases hi h
    exact heff.turn

theorem code_eq_three_iff (st : Status) : st.code = 3 ↔ st = .ioFailure := by cases st <;> decide

theorem code_eq_four_iff (st : Status) : st.code = 4 ↔ st = .resourceExhausted := by cases st <;> decide

theorem poison_set {i : Instr} {s t : State} (h : exec i s = .next t) (hs : s.chPoison = false)
    (ht : t.chPoison = true) : i.isChannel = true ∧ t.rStat = 3 := by
  cases hi : i.isChannel with
  | true =>
    rcases channel_ends hi h with ⟨st, _, rfl⟩ | ⟨_, ⟨_, _, hfree⟩ | ⟨st, _, hstat, hpoison⟩⟩
    · simp [hs] at ht
    · simp [hfree] at ht
    · exact ⟨rfl, hstat.trans ((code_eq_three_iff st).2 (hpoison.1 ht))⟩
  | false =>
    obtain ⟨_, u, _, _, _, _, heff, rfl⟩ := effect_cases hi h
    rcases heff.channel with ⟨_, e⟩ | ⟨_, e⟩ <;> simp [e, hs] at ht

theorem poison_of_ioFailure {i : Instr} {s t : State} (h : exec i s = .next t) (hi : i.isChannel = true)
    (hturn : t.turn = .host) (hstat : t.rStat = 3) : t.chPoison = true := by
  rcases channel_ends hi h with ⟨st, hst, rfl⟩ | ⟨_, ⟨_, hwait, _⟩ | ⟨st, _, hcode, hpoison⟩⟩
  · exact absurd ((code_eq_three_iff st).1 hstat) hst
  · exact absurd hturn hwait
  · exact hpoison.2 ((code_eq_three_iff st).1 (hcode.symm.trans hstat))

theorem poison_cleared {i : Instr} {s t : State} (h : exec i s = .next t) (hs : s.chPoison = true)
    (ht : t.chPoison = false) : i = .chreset := by
  cases hi : i.isChannel with
  | true =>
    rcases channel_ends hi h with ⟨st, _, rfl⟩ | ⟨hfree, _⟩
    · simp [hs] at ht
    · simp [hs] at hfree
  | false =>
    obtain ⟨_, u, _, _, _, _, heff, rfl⟩ := effect_cases hi h
    rcases heff.channel with ⟨_, e⟩ | ⟨hreset, _⟩
    · simp [e, hs] at ht
    · exact hreset

/-- Settles O56: a check changes no flag, and a run that has responded says by its status whether it poisoned. -/
theorem poisonIsSetByIoFailureAlone : Obligations.PoisonIsSetByIoFailureAlone :=
  fun _ _ _ h => ⟨poison_set h, fun hi _ => poison_of_ioFailure h hi, poison_cleared h⟩

/-- Settles O57: the channel commands leave the table's flag, and of the other effects two change it. -/
theorem fatalIsSetByExhaustionAlone : Obligations.FatalIsSetByExhaustionAlone := by
  intro i s t h
  cases hi : i.isChannel with
  | true =>
    have hsame := channel_tFatal hi h
    refine ⟨fun hs ht => ?_, ?_, fun hs ht => ?_⟩
    · simp [hsame, hs] at ht
    · rintro w rfl; cases hi
    · simp [hsame, hs] at ht
  | false =>
    obtain ⟨st, u, _, _, _, _, heff, rfl⟩ := effect_cases hi h
    rcases heff.table with ⟨hsame, hst⟩ | ⟨hadd, rfl, hset⟩ | ⟨rfl, hclear⟩
    · refine ⟨fun hs ht => ?_, fun _ _ hstat => absurd ((code_eq_four_iff st).1 hstat) hst, fun hs ht => ?_⟩
      · simp [hsame, hs] at ht
      · simp [hsame, hs] at ht
    · exact ⟨fun _ _ => ⟨hadd, rfl⟩, fun _ _ _ => hset, fun _ ht => by simp [hset] at ht⟩
    · exact ⟨fun _ ht => by simp [hclear] at ht, fun _ e => (nomatch e), fun _ _ => rfl⟩

/-! ### The cursor -/

/-- A read that does not fail moves the cursor on by what it delivers, and its check says that this does not wrap
(R24, R112). -/
theorem readBits_rpos_le (count : Nat) {s : State} (ht : (readBits count s).2.chPoison = false) :
    s.rpos.toNat ≤ (readBits count s).2.rpos.toNat := by
  rcases readBits_cases count s with ⟨_, e⟩ | ⟨_, _, e⟩ | ⟨_, _, e⟩ | ⟨hfit, _, k, _, _, _, _, _, e⟩ <;>
    rw [e] at ht ⊢
  · simp at ht
  · simp at ht
  · exact Nat.le_refl _
  · have hroom : s.rpos.toNat + count ≤ 2 ^ 64 - 1 := by simpa [State.cursorOverflows] using hfit
    have hle : min count (availBits k s.rposBit) ≤ count := Nat.min_le_left ..
    simp only [advance_rpos, rdNext_rpos, BitVec.toNat_add, BitVec.toNat_ofNat]
    omega

theorem readLoop_rpos_le {reqs : List Nat} {i total : Nat} {s : State} (hs : s.chPoison = false)
    (ht : (readLoop reqs i total s).2.chPoison = false) :
    s.rpos.toNat ≤ (readLoop reqs i total s).2.rpos.toNat := by
  induction reqs generalizing i total s with
  | nil => exact Nat.le_refl _
  | cons req reqs ih =>
    have hread := @readBits_rpos_le req s
    have hpoison := readBits_poison req s hs
    rw [readLoop] at ht ⊢
    rcases hr : readBits req s with ⟨⟨n, b, st⟩ | _, u⟩ <;> rw [hr] at ht hread hpoison
    · simp only at ht ⊢
      by_cases hst : st = .ioFailure
      · rw [if_pos hst] at ht ⊢; exact hread ht
      · have hu : u.chPoison = false := by simpa [hst] using hpoison
        rw [if_neg hst] at ht ⊢
        split_ifs at ht ⊢ with hshort
        · exact hread hu
        · exact Nat.le_trans (hread hu) (ih (s := u.setCb i b) hu ht)
    · exact hread ht

theorem endRead_rpos (r : BitRead × State) : (endRead r).rpos = r.2.rpos ∧ (endRead r).chPoison = r.2.chPoison := by
  rcases r with ⟨_ | _, t⟩ <;> exact ⟨rfl, rfl⟩

theorem endChunk_rpos (a : Agent) (f : Nat → Status) (r : ChunkEnd × State) :
    (endChunk a f r).rpos = r.2.rpos ∧ (endChunk a f r).chPoison = r.2.chPoison := by
  rcases r with ⟨_ | _ | _, t⟩ <;> exact ⟨rfl, rfl⟩

theorem channel_rpos_le {i : Instr} {s t : State} (hi : i.isChannel = true) (hs : s.chPoison = false)
    (h : exec i s = .next t) (ht : t.chPoison = false) : s.rpos.toNat ≤ t.rpos.toNat := by
  have hsame : t.chPoison = s.chPoison := ht.trans hs.symm
  cases i with
  | rdbits count =>
    rcases channel_cases rfl h with ⟨_, _, rfl⟩ | ⟨_, rfl⟩
    · exact Nat.le_refl _
    · obtain ⟨hrpos, hpoison⟩ := endRead_rpos (readBits count.toNat s)
      rw [channelRun, hrpos]
      exact readBits_rpos_le _ (hpoison.symm.trans ht)
  | rdchunk w =>
    rcases channel_cases rfl h with ⟨_, _, rfl⟩ | ⟨_, rfl⟩
    · exact Nat.le_refl _
    · obtain ⟨hrpos, hpoison⟩ := endChunk_rpos .rsResponder (readStatus w.toNat) (runRdchunk w s)
      rw [channelRun, hrpos]
      exact readLoop_rpos_le (s := s.fillCb _) hs (hpoison.symm.trans ht)
  | wrbits => exact Nat.le_of_eq (congrArg _ ((wrbits_frame h).cursor hsame).symm)
  | flush => exact Nat.le_of_eq (congrArg _ ((flush_frame h).cursor hsame).symm)
  | wrchunk => exact Nat.le_of_eq (congrArg _ ((wrchunk_frame h).cursor hsame).symm)
  | nop | addinc | tblrd | ldcb | stcb | rdsr | chreset | tblreset => cases hi

/-- Settles O55: reads move the cursor on, writes keep it, and of the other commands only CHRESET touches it. -/
theorem cursorOnlyMovesForward : Obligations.CursorOnlyMovesForward := by
  intro i s t hne hs h ht
  cases hi : i.isChannel with
  | true => exact channel_rpos_le hi hs h ht
  | false =>
    obtain ⟨_, u, _, _, _, _, heff, rfl⟩ := effect_cases hi h
    rcases heff.channel with ⟨e, _⟩ | ⟨hreset, _⟩
    · exact Nat.le_of_eq (congrArg _ e.symm)
    · exact absurd hreset hne

end Sys2Proof.Machine
end

section
/-! PROOFS. Two runs of one command from states that differ in registers it does not read: the response registers of an
earlier command (R22), the cursor and accumulator of a poisoned channel (R26, R205). -/

namespace Sys2Proof.Machine

/-! ### Other response registers -/

/-- The state with the response registers of another one. -/
abbrev State.withResponse (s r : State) : State :=
  { s with rStat := r.rStat, rBits := r.rBits, rByte := r.rByte, rVal := r.rVal, rIdx := r.rIdx }

theorem readBits_withResponse (count : Nat) (s r : State) :
    readBits count (s.withResponse r) = ((readBits count s).1, (readBits count s).2.withResponse r) := by
  have hoverflow : (s.withResponse r).cursorOverflows count = s.cursorOverflows count := rfl
  have hanswer : (s.withResponse r).nextRead = s.nextRead := rfl
  simp only [readBits, storeRead, hoverflow, hanswer]
  split_ifs
  · rfl
  · cases s.nextRead <;> rfl

theorem writeBits_withResponse (count : Nat) (data : Byte) (s r : State) :
    writeBits count data (s.withResponse r) =
      ((writeBits count data s).1, (writeBits count data s).2.withResponse r) := by
  have hanswer : (s.withResponse r).nextAppend = s.nextAppend := rfl
  simp only [writeBits, storeAppend, hanswer]
  split_ifs
  · cases s.nextAppend <;> rfl
  · rfl

theorem readLoop_withResponse (reqs : List Nat) (i total : Nat) (s r : State) :
    readLoop reqs i total (s.withResponse r) =
      ((readLoop reqs i total s).1, (readLoop reqs i total s).2.withResponse r) := by
  induction reqs generalizing i total s with
  | nil => rfl
  | cons req reqs ih =>
    rw [readLoop, readLoop, readBits_withResponse]
    rcases readBits req s with ⟨⟨n, b, st⟩ | _, t⟩
    · simp only
      split_ifs
      · rfl
      · rfl
      · exact ih (i + 1) (total + n) (t.setCb i b)
    · rfl

theorem writeLoop_withResponse (reqs : List Nat) (i total : Nat) (s r : State) :
    writeLoop reqs i total (s.withResponse r) =
      ((writeLoop reqs i total s).1, (writeLoop reqs i total s).2.withResponse r) := by
  induction reqs generalizing i total s with
  | nil => rfl
  | cons req reqs ih =>
    have hbyte : (s.withResponse r).cbByte i = s.cbByte i := rfl
    rw [writeLoop, writeLoop, hbyte, writeBits_withResponse]
    rcases writeBits req (s.cbByte i) s with ⟨⟨n, st⟩ | _, t⟩
    · simp only
      split_ifs
      · rfl
      · exact ih (i + 1) (total + req) t
    · rfl

/-- A command that does not wait writes every response register. -/
theorem endRead_withResponse {x : BitRead × State} (r : State) (h : (endRead x).turn = .host) :
    endRead (x.1, x.2.withResponse r) = endRead x := by
  rcases x with ⟨_ | _, t⟩
  · rfl
  · cases h

theorem endWrite_withResponse {x : BitWrite × State} (r : State) (h : (endWrite x).turn = .host) :
    endWrite (x.1, x.2.withResponse r) = endWrite x := by
  rcases x with ⟨_ | _, t⟩
  · rfl
  · cases h

theorem endChunk_withResponse {a : Agent} {f : Nat → Status} {x : ChunkEnd × State} (r : State) (ha : a ≠ .host)
    (h : (endChunk a f x).turn = .host) : endChunk a f (x.1, x.2.withResponse r) = endChunk a f x := by
  rcases x with ⟨_ | _ | _, t⟩
  · rfl
  · rfl
  · exact absurd h ha

theorem channelRun_withResponse {i : Instr} {s : State} (r : State) (hi : i.isChannel = true)
    (h : (channelRun s i).turn = .host) : channelRun (s.withResponse r) i = channelRun s i := by
  cases i with
  | rdbits count => rw [channelRun, readBits_withResponse]; exact endRead_withResponse r h
  | wrbits count data =>
    have hrun : (if count = 0 then padPending (s.withResponse r) else writeBits count.toNat data (s.withResponse r)) =
        ((if count = 0 then padPending s else writeBits count.toNat data s).1,
          (if count = 0 then padPending s else writeBits count.toNat data s).2.withResponse r) := by
      split_ifs
      · exact writeBits_withResponse _ _ s r
      · exact writeBits_withResponse _ _ s r
    rw [channelRun, hrun]
    exact endWrite_withResponse r h
  | flush data =>
    have hrun : padPending (s.withResponse r) = ((padPending s).1, (padPending s).2.withResponse r) :=
      writeBits_withResponse _ _ s r
    rw [channelRun, hrun]
    exact endWrite_withResponse r h
  | rdchunk w =>
    have hrun : runRdchunk w (s.withResponse r) = ((runRdchunk w s).1, (runRdchunk w s).2.withResponse r) :=
      readLoop_withResponse _ _ _ (s.fillCb _) r
    rw [channelRun, hrun]
    exact endChunk_withResponse r (by decide) h
  | wrchunk w =>
    rw [channelRun, runWrchunk, writeLoop_withResponse]
    exact endChunk_withResponse r (by decide) h
  | nop | addinc | tblrd | ldcb | stcb | rdsr | chreset | tblreset => cases hi

theorem channelAnswer_withResponse (i : Instr) (s r : State) :
    channelAnswer (s.withResponse r) i = channelAnswer s i := by
  cases i <;> rfl

/-! ### Another channel and other response registers, before a command that uses neither -/

/-- The state with the cursor, the accumulator and the flag of another one's channel. -/
abbrev State.withChannel (s r : State) : State :=
  { s with rpos := r.rpos, pbits := r.pbits, pcnt := r.pcnt, chPoison := r.chPoison }

/-- The state with another one's channel and response registers. -/
abbrev State.withOthers (s r : State) : State := (s.withChannel r).withResponse r

theorem grow_withOthers (s r : State) : (s.withOthers r).grow = s.grow.withOthers r := by
  unfold State.grow
  by_cases hfit : s.tsize = s.tcap
  · rw [if_pos hfit, if_pos hfit]
  · rw [if_neg hfit, if_neg hfit]

theorem incrementAt_withOthers (p : Nat) (s r : State) :
    incrementAt p (s.withOthers r) = (incrementAt p s).withChannel r := by
  have hslot : (s.withOthers r).slot p = s.slot p := rfl
  rcases incrementAt_cases p s with ⟨hcount, e⟩ | ⟨hcount, e⟩ <;> rw [e] <;>
    rcases incrementAt_cases p (s.withOthers r) with ⟨hcount', e'⟩ | ⟨hcount', e'⟩ <;> rw [hslot] at hcount' <;> rw [e']
  · rfl
  · exact absurd hcount hcount'
  · exact absurd hcount' hcount
  · rfl

theorem insertAt_withOthers (p : Nat) (k : Key) (s r : State) :
    insertAt p k (s.withOthers r) = (insertAt p k s).withChannel r := by
  have hfull : (s.withOthers r).tableFull = s.tableFull := rfl
  unfold insertAt
  rw [hfull, grow_withOthers]
  split_ifs <;> rfl

theorem execAddinc_withOthers {w : BitVec 16} {s t : State} (h : execAddinc w s = .next t) (r : State) :
    execAddinc w (s.withOthers r) = .next (t.withChannel r) := by
  have hsearch : search ((s.withOthers r).cbKey w) (s.withOthers r).entries = search (s.cbKey w) s.entries := rfl
  rcases execAddinc_cases w s with ⟨hw, e⟩ | ⟨hw, hf, e⟩ | ⟨hw, hf, p, hfound, e⟩ | ⟨hw, hf, p, hfound, e⟩ <;>
    obtain rfl := Host.Outcome.next.inj (e.symm.trans h)
  · exact if_pos hw
  · simp only [execAddinc, hw, hf]; rfl
  · rw [← incrementAt_withOthers]
    simp only [execAddinc, hw, hf, hsearch, hfound]; rfl
  · rw [← insertAt_withOthers]
    simp only [execAddinc, hw, hf, hsearch, hfound]; rfl

/-- Does the command read or write a register of the channel (R24 to R26)? -/
def touchesChannel : Instr → Bool
  | .rdbits _ | .wrbits _ _ | .flush _ | .rdchunk _ | .wrchunk _ | .rdsr _ | .chreset => true
  | .nop | .addinc _ | .tblrd _ | .ldcb _ | .stcb _ _ | .tblreset => false

/-- A command that does not touch the channel does the same whatever the channel and the response registers hold, leaves
the channel, and writes every response register. -/
theorem exec_withOthers {i : Instr} {s t : State} (hi : touchesChannel i = false) (h : exec i s = .next t)
    (r : State) : exec i (s.withOthers r) = .next (t.withChannel r) := by
  cases i with
  | nop | tblreset => cases h; rfl
  | addinc w => exact execAddinc_withOthers h r
  | tblrd tidx =>
    by_cases hf : s.tFatal = true
    · simp only [exec, execTblrd, if_pos hf] at h ⊢; cases h; rfl
    by_cases hr : s.tsize.toNat ≤ tidx.toNat
    · simp only [exec, execTblrd, if_neg hf, if_pos hr] at h ⊢; cases h; rfl
    · simp only [exec, execTblrd, if_neg hf, if_neg hr] at h ⊢; cases h; rfl
  | ldcb bidx =>
    by_cases hb : bidxOk s.par bidx = false
    · simp only [exec, execLdcb, if_pos hb] at h ⊢; cases h; rfl
    · simp only [exec, execLdcb, if_neg hb] at h ⊢; cases h; rfl
  | stcb bidx data =>
    by_cases hb : bidxOk s.par bidx = false
    · simp only [exec, execStcb, if_pos hb] at h ⊢; cases h; rfl
    · simp only [exec, execStcb, if_neg hb] at h ⊢; cases h; rfl
  | rdbits | wrbits | flush | rdchunk | wrchunk | rdsr | chreset => cases hi

/-- Such a command leaves the channel as it is. -/
theorem withChannel_self_of_exec {i : Instr} {s t : State} (hi : touchesChannel i = false)
    (h : exec i s = .next t) : t.withChannel s = t :=
  Host.Outcome.next.inj ((exec_withOthers hi h s).symm.trans h)

/-! ### RDSR -/

theorem rdsr_withResponse (sel : BitVec 4) (s r : State) :
    exec (.rdsr sel) (s.withResponse r) = exec (.rdsr sel) s := by
  have hvalue : srValue (s.withResponse r) sel.toNat = srValue s sel.toNat := rfl
  have hfree : srIsFree (s.withResponse r) sel.toNat = srIsFree s sel.toNat := rfl
  simp only [exec, execRdsr, State.srDrawn, hvalue, hfree]
  split_ifs <;> rfl

/-- Where the register shows no cursor and no accumulator their values do not matter (R34). -/
theorem srExact_of_not_shows {sel : Nat} (h : srShowsChannel sel = false) (s : State) (rpos : BitVec 64) (pbits : Byte)
    (pcnt : BitVec 3) : srExact { s with rpos := rpos, pbits := pbits, pcnt := pcnt } sel = srExact s sel := by
  match sel, h with
  | 0, _ | 1, _ | 5, _ | 6, _ | _ + 7, _ => rfl

/-- What RDSR shows of a poisoned channel is freshly drawn (R35; log entry 8). -/
theorem srValue_of_chPoison {s : State} (hs : s.chPoison = true) (sel : Nat) (rpos : BitVec 64) (pbits : Byte)
    (pcnt : BitVec 3) : srValue { s with rpos := rpos, pbits := pbits, pcnt := pcnt } sel = srValue s sel := by
  have hsame : srIsFree { s with rpos := rpos, pbits := pbits, pcnt := pcnt } sel = srIsFree s sel := rfl
  unfold srValue
  by_cases hfree : srIsFree s sel = true
  · rw [if_pos hfree, hsame, if_pos hfree]
  · have hshows : srShowsChannel sel = false := by simpa [srIsFree, hs] using hfree
    rw [if_neg hfree, hsame, if_neg hfree]
    exact srExact_of_not_shows hshows s rpos pbits pcnt

theorem rdsr_of_chPoison {sel : BitVec 4} {s t : State} (hs : s.chPoison = true) (h : exec (.rdsr sel) s = .next t)
    (rpos : BitVec 64) (pbits : Byte) (pcnt : BitVec 3) :
    exec (.rdsr sel) { s with rpos := rpos, pbits := pbits, pcnt := pcnt } =
      .next { t with rpos := rpos, pbits := pbits, pcnt := pcnt } := by
  have hsame : srIsFree { s with rpos := rpos, pbits := pbits, pcnt := pcnt } sel.toNat = srIsFree s sel.toNat := rfl
  simp only [exec, execRdsr, State.srDrawn, srValue_of_chPoison hs, hsame] at h ⊢
  split_ifs at h ⊢ <;> cases h <;> rfl

/-! ### The obligations -/

/-- A command that does not use the channel writes every response register, whatever they held. -/
theorem exec_withResponse {i : Instr} {s t : State} (hi : i.isChannel = false) (h : exec i s = .next t) (r : State) :
    exec i (s.withResponse r) = .next t := by
  cases htouch : touchesChannel i with
  | true =>
    cases i with
    | rdsr sel => exact (rdsr_withResponse sel s r).trans h
    | chreset => exact h
    | rdbits | wrbits | flush | rdchunk | wrchunk => cases hi
    | nop | addinc | tblrd | ldcb | stcb | tblreset => cases htouch
  | false =>
    rw [← withChannel_self_of_exec htouch h]
    exact exec_withOthers htouch h (s.withResponse r)

/-- Settles O54: a check answers all five registers, a run that has ended wrote all five, and so did every other
command. -/
theorem responsesAreNeverStale : Obligations.ResponsesAreNeverStale := by
  intro i s t st n b v x _ h hturn
  show exec i (s.withResponse { s with rStat := st, rBits := n, rByte := b, rVal := v, rIdx := x }) = .next t
  cases hi : i.isChannel with
  | true =>
    rw [exec_channel hi, channelAnswer_withResponse]
    rcases channel_cases hi h with ⟨st, hst, rfl⟩ | ⟨hrun, rfl⟩
    · rw [hst]; rfl
    · rw [hrun, channelRun_withResponse _ hi hturn]; rfl
  | false => exact exec_withResponse hi h _

theorem channelAnswer_of_chPoison_eq {s : State} (hs : s.chPoison = true) (i : Instr) (rpos : BitVec 64) (pbits : Byte)
    (pcnt : BitVec 3) :
    channelAnswer { s with rpos := rpos, pbits := pbits, pcnt := pcnt } i = channelAnswer s i := by
  cases i <;> simp only [channelAnswer, hs, if_true]

/-- Settles O59: a channel command stops at its checks, RDSR draws what it shows, and no other command but CHRESET
touches the channel. -/
theorem poisonedRegistersAreNeverUsed : Obligations.PoisonedRegistersAreNeverUsed := by
  intro i s t rpos pbits pcnt hs h
  cases htouch : touchesChannel i with
  | false =>
    have hne : i ≠ .chreset := by rintro rfl; cases htouch
    rw [if_neg hne, ← withChannel_self_of_exec htouch h]
    exact exec_withOthers htouch h { s with rpos := rpos, pbits := pbits, pcnt := pcnt }
  | true =>
    cases hi : i.isChannel with
    | true =>
      have hne : i ≠ .chreset := by rintro rfl; cases hi
      obtain ⟨st, hst⟩ := channelAnswer_of_chPoison hi hs
      rw [exec_channel hi, hst] at h
      rw [if_neg hne, exec_channel hi, channelAnswer_of_chPoison_eq hs, hst]
      cases h; rfl
    | false =>
      cases i with
      | rdsr sel => exact rdsr_of_chPoison hs h rpos pbits pcnt
      | chreset => cases h; rfl
      | rdbits | wrbits | flush | rdchunk | wrchunk => cases hi
      | nop | addinc | tblrd | ldcb | stcb | tblreset => cases htouch

end Sys2Proof.Machine
end

section
/-! PROOFS. RDSR: the fields of the status registers (R34, R35, R180). -/

namespace Sys2Proof.Machine

theorem exec_rdsr {sel : BitVec 4} (h : sel.toNat ≤ 6) (s : State) :
    exec (.rdsr sel) s = .next ((s.srDrawn sel.toNat).respond .ok 0 0 (srValue s sel.toNat) 0) :=
  if_neg (Nat.not_lt.2 h)

/-- A register that shows nothing unspecified is read as it is, without a draw (R34). -/
theorem exec_rdsr_exact {sel : BitVec 4} (h : sel.toNat ≤ 6) {s : State} (hfree : srIsFree s sel.toNat = false) :
    exec (.rdsr sel) s = .next (s.respond .ok 0 0 (srExact s sel.toNat) 0) := by
  rw [exec_rdsr h]
  simp [State.srDrawn, srValue, hfree]

/-! ### The layouts -/

theorem srId_fields (tableLog2 : BitVec 5) (wMax : BitVec 16) {v : BitVec 32}
    (hv : v = 0x01#32 <<< 24 ||| tableLog2.setWidth 32 <<< 16 ||| wMax.setWidth 32) :
    v.extractLsb' 0 16 = wMax ∧ v.extractLsb' 16 5 = tableLog2 ∧ v.extractLsb' 21 3 = 0 ∧ v.extractLsb' 24 8 = 1 := by
  subst hv
  refine ⟨?_, ?_, ?_, ?_⟩
  all_goals
    apply BitVec.eq_of_getLsbD_eq
    intro k hk
    interval_cases k <;> simp

theorem srFlags_fields (poison fatal : Bool) {v : BitVec 32}
    (hv : v = (BitVec.ofBool fatal).setWidth 32 <<< 1 ||| (BitVec.ofBool poison).setWidth 32) :
    v.getLsbD 0 = poison ∧ v.getLsbD 1 = fatal ∧ v.extractLsb' 2 30 = 0 := by
  subst hv
  revert poison fatal
  decide

theorem srAccumulator_fields (pbits : Byte) (pcnt : BitVec 3) {v : BitVec 32}
    (hv : v = pcnt.setWidth 32 <<< 8 ||| pbits.setWidth 32) :
    v.extractLsb' 0 8 = pbits ∧ v.extractLsb' 8 3 = pcnt ∧ v.extractLsb' 11 21 = 0 := by
  subst hv
  refine ⟨?_, ?_, ?_⟩
  all_goals
    apply BitVec.eq_of_getLsbD_eq
    intro k hk
    interval_cases k <;> simp

theorem setWidth_toNat_of_tableSize (n : BitVec 25) : (n.setWidth 32).toNat = n.toNat := by
  rw [BitVec.toNat_setWidth]
  exact Nat.mod_eq_of_lt (Nat.lt_trans n.isLt (by decide))

/-! ### The obligations -/

/-- Settles O48: the value is `srExact`, whose layout has each field where R34 puts it. -/
theorem rdsrReadsTheStatusRegister : Obligations.RdsrReadsTheStatusRegister := by
  intro s sel hpar hsel hpoison
  have hfree : srIsFree s sel.toNat = false := by
    cases hp : s.chPoison with
    | false => simp [srIsFree, hp]
    | true =>
      obtain ⟨h2, h3, h4⟩ := hpoison hp
      have hshown {n : Nat} (hn : n < 16) (hne : sel ≠ BitVec.ofNat 4 n) : sel.toNat ≠ n :=
        fun e => hne (BitVec.eq_of_toNat_eq (by rw [e, BitVec.toNat_ofNat, Nat.mod_eq_of_lt hn]))
      simp [srIsFree, srShowsChannel, hshown (n := 2) (by decide) h2, hshown (n := 3) (by decide) h3,
        hshown (n := 4) (by decide) h4]
  refine ⟨srExact s sel.toNat, exec_rdsr_exact hsel hfree, ?_, ?_, ?_, ?_, ?_, ?_, ?_⟩ <;> rintro rfl
  · obtain ⟨hw, ht, h0, h1⟩ := srId_fields (v := srExact s 0) (BitVec.ofNat 5 s.par.tableLog2)
      (BitVec.ofNat 16 s.par.wMax) rfl
    obtain ⟨_, hwMax, htableLog2⟩ := hpar
    refine ⟨(congrArg _ hw).trans ?_, (congrArg _ ht).trans ?_, h0, h1⟩
    · exact Nat.mod_eq_of_lt (by omega)
    · exact Nat.mod_eq_of_lt (by omega)
  · exact srFlags_fields s.chPoison s.tFatal rfl
  · rfl
  · rfl
  · exact srAccumulator_fields s.pbits s.pcnt rfl
  · exact setWidth_toNat_of_tableSize s.tsize
  · exact setWidth_toNat_of_tableSize s.tcap

/-- Settles O49: the value is the layout of freshly drawn values, in which the zero fields still are 0. -/
theorem rdsrOfAPoisonedChannel : Obligations.RdsrOfAPoisonedChannel := by
  intro s sel hs hsel
  have hfree : srIsFree s sel.toNat = true := by
    rcases hsel with rfl | rfl | rfl <;> simp [srIsFree, srShowsChannel, hs]
  have hle : sel.toNat ≤ 6 := by rcases hsel with rfl | rfl | rfl <;> decide
  refine ⟨srValue s sel.toNat, ?_, ?_⟩
  · rw [exec_rdsr hle, State.srDrawn, if_pos hfree]; rfl
  · rintro rfl
    rw [srValue, if_pos hfree]
    exact (srAccumulator_fields (Config.freePbits s.freeCtr) (Config.freePcnt s.freeCtr) rfl).2.2

end Sys2Proof.Machine
end

section
/-! PROOFS. A store that never answers: the run of each command up to the request that is not answered (R22, R221,
R236). -/

namespace Sys2Proof.Machine

/-! ### Where the cursor stands -/

theorem rposBit_eq (s : State) : s.rposBit = s.rpos.toNat % 8 := by
  simp [State.rposBit, BitVec.extractLsb'_toNat]

theorem rposByte_eq (s : State) : s.rposByte = s.rpos.toNat / 8 := by
  have := s.rpos.isLt
  simp [State.rposByte, BitVec.extractLsb'_toNat, Nat.shiftRight_eq_div_pow]
  omega

/-- What the fetched bytes hold at and after the cursor is all that a read of at most 8 bits can use of the store
(R112, R114). -/
theorem min_availBits (s : State) (len : Nat) {count : Nat} (hc : count ≤ 8) :
    min count (availBits (min (fetchSize s.rposBit) (len - s.rposByte)) s.rposBit) =
      min count (8 * len - s.rpos.toNat) := by
  rw [rposBit_eq, rposByte_eq, availBits, fetchSize]
  split_ifs <;> omega

theorem not_cursorOverflows {s : State} {count : Nat} (h : s.rpos.toNat + count ≤ 2 ^ 64 - 1) :
    s.cursorOverflows count = false := by
  simpa [State.cursorOverflows] using h

/-- A read that the store answers and has the bits for delivers all of them (R114). -/
theorem readBits_full {req : Nat} {s : State} (hreq : req ≤ 8) (hfit : s.rpos.toNat + req ≤ 2 ^ 64 - 1)
    (hans : s.nextRead = .ok) (hlen : s.rpos.toNat + req ≤ 8 * s.rs.len) :
    ∃ b, readBits req s = (.got req b .ok, { s with rpos := s.rpos + BitVec.ofNat 64 req, rdAns := s.rdAns.tail }) := by
  have hrs : s.rdNext.rs = s.rs := rdNext_rs (by simp [hans])
  have hdeliv := min_availBits s s.rs.len hreq
  rw [Nat.min_eq_left (by omega : req ≤ 8 * s.rs.len - s.rpos.toNat)] at hdeliv
  rcases readBits_cases req s with ⟨e, _⟩ | ⟨_, e, _⟩ | ⟨_, e, _⟩ | ⟨_, _, k, d0, d1, hk, _, _, e⟩
  · rw [not_cursorOverflows hfit] at e; cases e
  · rw [hans] at e; cases e
  · rw [hans] at e; cases e
  · rw [hrs] at hk
    have hstate : s.rdNext.advance req =
        { s with rpos := s.rpos + BitVec.ofNat 64 req, rdAns := s.rdAns.tail } := by
      simp only [State.rdNext, State.advance, hans]; rfl
    have hstat : readStatus req req = .ok := if_pos rfl
    rw [hk, hdeliv, hstate, hstat] at e
    exact ⟨_, e⟩

theorem readBits_silent {count : Nat} {s : State} (hfit : s.rpos.toNat + count ≤ 2 ^ 64 - 1)
    (hans : s.nextRead = .silent) : readBits count s = (.silent, { s with rdAns := s.rdAns.tail }) := by
  have hstate : s.rdNext = { s with rdAns := s.rdAns.tail } := by simp only [State.rdNext, hans]; rfl
  rcases readBits_cases count s with ⟨e, _⟩ | ⟨_, e, _⟩ | ⟨_, _, e⟩ | ⟨_, ⟨_, e⟩, _⟩
  · rw [not_cursorOverflows hfit] at e; cases e
  · rw [hans] at e; cases e
  · rw [e, hstate]
  · exact absurd hans e

/-- An append that is not answered: what may have landed is the window's top byte (R64, R221). -/
theorem writeBits_silent {count : Nat} (data : Byte) {s : State} {landed : Bool} (h8 : 8 ≤ s.pcnt.toNat + count)
    (hans : s.nextAppend = .silent landed) : writeBits count data s =
      (.silent, s.wrNext.land landed ((writeShift s.pbits s.pcnt.toNat count data).extractLsb' 8 8)) := by
  rcases writeBits_cases count data s with ⟨e, _⟩ | ⟨_, e, _⟩ | ⟨_, l, e, _⟩ | ⟨_, l, e, e'⟩
  · omega
  · rw [hans] at e; cases e
  · rw [hans] at e; cases e
  · rw [hans] at e
    cases e
    exact e'

/-! ### The requests of a chunk before one of them -/

theorem lt_ceil8_iff {i w : Nat} : i < ceil8 w ↔ 8 * i < w := by
  unfold ceil8; omega

/-- The requests before request number `i` are for 8 bits each (R131). -/
theorem chunkReqs_split {i w : Nat} (h : i < ceil8 w) :
    ∃ rest, chunkReqs w = List.replicate i 8 ++ min (w - 8 * i) 8 :: rest := by
  have hi := lt_ceil8_iff.1 h
  have hlen : i < (chunkReqs w).length := by simpa using h
  have hfull : (chunkReqs w).take i = List.replicate i 8 := by
    refine List.eq_replicate_iff.2 ⟨by simp; omega, fun req hreq => ?_⟩
    obtain ⟨j, hj, rfl⟩ := List.mem_take_iff_getElem.1 hreq
    simp [chunkReqs]; omega
  have hreq : (chunkReqs w)[i] = min (w - 8 * i) 8 := by simp [chunkReqs]
  refine ⟨(chunkReqs w).drop (i + 1), ?_⟩
  rw [← hfull, ← hreq, ← List.drop_eq_getElem_cons hlen, List.take_append_drop]

/-- A read whose next `n` answers are listed as OK, or not listed, is answered OK. -/
theorem nextRead_ok {s : State} {n : Nat} (h : ∀ a ∈ s.rdAns.take (n + 1), a = .ok) : s.nextRead = .ok := by
  unfold State.nextRead
  split
  · cases ha : s.rdAns with
    | nil => rfl
    | cons a l => exact h a (by simp [ha])
  · rfl

/-- The state after `n` reads of 8 bits, all delivered, with `cb` in the buffer. -/
def State.afterReads (s : State) (n : Nat) (cb : List Byte) : State :=
  { s with rpos := s.rpos + BitVec.ofNat 64 (8 * n), rdAns := s.rdAns.drop n, cb := cb }

@[simp] theorem afterReads_rs (s : State) (n : Nat) (cb : List Byte) : (s.afterReads n cb).rs = s.rs := rfl

theorem afterReads_rpos_toNat {s : State} {n : Nat} (cb : List Byte) (h : s.rpos.toNat + 8 * n ≤ 2 ^ 64 - 1) :
    (s.afterReads n cb).rpos.toNat = s.rpos.toNat + 8 * n := by
  simp only [State.afterReads, BitVec.toNat_add, BitVec.toNat_ofNat]
  omega

theorem afterReads_afterReads (s : State) (m n : Nat) (cb cb' : List Byte) :
    (s.afterReads m cb).afterReads n cb' = s.afterReads (m + n) cb' := by
  simp only [State.afterReads, BitVec.add_assoc, ← BitVec.ofNat_add, ← Nat.mul_add, List.drop_drop]

/-- RDCHUNK's loop over requests for 8 bits that are all delivered (R132). -/
theorem readLoop_full (n : Nat) (reqs : List Nat) (i total : Nat) (s : State) (hfit : s.rpos.toNat + 8 * n ≤ 2 ^ 64 - 1)
    (hlen : n = 0 ∨ s.rpos.toNat + 8 * n ≤ 8 * s.rs.len) (hans : ∀ a ∈ s.rdAns.take n, a = .ok) :
    ∃ cb, readLoop (List.replicate n 8 ++ reqs) i total s =
      readLoop reqs (i + n) (total + 8 * n) (s.afterReads n cb) := by
  induction n generalizing i total s with
  | zero => exact ⟨s.cb, by simp [State.afterReads]⟩
  | succ n ih =>
    obtain ⟨b, hread⟩ := readBits_full (req := 8) (by decide) (by omega) (nextRead_ok hans) (by omega)
    have hnext : readLoop (List.replicate (n + 1) 8 ++ reqs) i total s =
        readLoop (List.replicate n 8 ++ reqs) (i + 1) (total + 8) (s.afterReads 1 (s.cb.set i b)) := by
      rw [List.replicate_succ, List.cons_append, readLoop, hread]
      simp only [reduceCtorEq, if_false, Nat.lt_irrefl, State.afterReads, List.drop_one]
      rfl
    have hpos := afterReads_rpos_toNat (s := s) (n := 1) (s.cb.set i b) (by omega)
    have htake : s.rdAns.take (n + 1) = s.rdAns.take 1 ++ (s.rdAns.drop 1).take n := by
      rw [Nat.add_comm, List.take_add]
    obtain ⟨cb, hloop⟩ := ih (i + 1) (total + 8) (s.afterReads 1 (s.cb.set i b)) (by omega)
      (by rw [afterReads_rs, hpos]; omega) fun a ha => hans a (by rw [htake]; exact List.mem_append_right _ ha)
    refine ⟨cb, ?_⟩
    rw [hnext, hloop, afterReads_afterReads, Nat.add_comm 1 n]
    congr 1 <;> omega

/-- WRCHUNK's loop over requests for 8 bits whose appends are all taken: one byte has been appended for each, and as
many bits are pending as before (R136). -/
theorem writeLoop_full (n : Nat) (reqs : List Nat) (i total : Nat) (s : State)
    (hans : ∀ j, j < n → s.appendAnswer j = .ok) :
    ∃ t, writeLoop (List.replicate n 8 ++ reqs) i total s = writeLoop reqs (i + n) (total + 8 * n) t ∧
      t.pcnt = s.pcnt ∧ (∀ j, t.appendAnswer j = s.appendAnswer (n + j)) ∧
      t.stores.ws.len = s.stores.ws.len + n := by
  induction n generalizing i total s with
  | zero => exact ⟨s, by simp, rfl, by simp, rfl⟩
  | succ n ih =>
    have hok : s.nextAppend = .ok := hans 0 (Nat.succ_pos n)
    rcases writeBits_cases 8 (s.cbByte i) s with ⟨e, _⟩ | ⟨_, _, hwrite⟩ | ⟨_, l, e, _⟩ | ⟨_, l, e, _⟩
    · omega
    · have hlater : ∀ (b b' : Byte) (c j : Nat),
          ((s.wrNext.land true b).setPending b' c).appendAnswer j = s.appendAnswer (j + 1) :=
        fun b b' c j => appendAnswer_taken s b j
      obtain ⟨t, hloop, hcnt, ht, hlen⟩ := ih (i + 1) (total + 8) _ fun j hj =>
        (hlater _ _ _ j).trans (hans (j + 1) (by omega))
      refine ⟨t, ?_, ?_, fun j => ?_, ?_⟩
      · rw [List.replicate_succ, List.cons_append, writeLoop, hwrite]
        simp only [reduceCtorEq, if_false]
        rw [hloop]
        congr 1 <;> omega
      · rw [hcnt]; simp
      · rw [ht, hlater]; congr 1; omega
      · rw [hlen]; simp; omega
    · rw [hok] at e; cases e
    · rw [hok] at e; cases e

/-! ### The commands -/

theorem rdbits_unanswered {s : State} {count : BitVec 4} (hs : s.chPoison = false) (h1 : 1 ≤ count.toNat)
    (h8 : count.toNat ≤ 8) (hfit : s.rpos.toNat + count.toNat ≤ 2 ^ 64 - 1) (hans : s.nextRead = .silent) :
    exec (.rdbits count) s = .next { s with rdAns := s.rdAns.tail, turn := .rsResponder } := by
  rw [exec_rdbits_run h1 h8 hs, readBits_silent hfit hans]; rfl

theorem wrbits_unanswered {s : State} {count : BitVec 4} (data : Byte) {landed : Bool} (hs : s.chPoison = false)
    (hc : count.toNat ≤ 8) (h8 : 8 ≤ s.pcnt.toNat + count.toNat) (hans : s.nextAppend = .silent landed) :
    ∃ b, exec (.wrbits count data) s = .next { s with
        wrAns := s.wrAns.tail
        stores := if landed then s.stores.append b else s.stores
        turn := .wsResponder } ∧
      (s.accumulatorOk → byteBits b = ((byteBits s.pbits).take s.pcnt.toNat ++ byteBits data).take 8) := by
  have hp : s.pcnt.toNat < 8 := s.pcnt.isLt
  refine ⟨(writeShift s.pbits s.pcnt.toNat count.toNat data).extractLsb' 8 8, ?_, fun ha => ?_⟩
  · rw [exec_wrbits_run data (by omega) hc hs, writeBits_silent data h8 hans]; rfl
  · exact writeShift_sentByte s.pbits data hp hc (ha hs) h8

theorem flush_unanswered {s : State} (data : Byte) {landed : Bool} (hs : s.chPoison = false) (hp : s.pcnt ≠ 0)
    (hans : s.nextAppend = .silent landed) : exec (.flush data) s = .next { s with
      wrAns := s.wrAns.tail
      stores := if landed then s.stores.append s.pbits else s.stores
      turn := .wsResponder } := by
  rw [exec_flush_run data hs hp, padPending, writeBits_silent 0 (by omega) hans, writeShift_zero, window_high]; rfl

theorem rdchunk_unanswered {s : State} {w : BitVec 16} {i : Nat} (hs : s.chPoison = false) (hw : w.toNat ≤ s.par.wMax)
    (hi : i < ceil8 w.toNat) (hfit : s.rpos.toNat + min w.toNat (8 * i + 8) ≤ 2 ^ 64 - 1)
    (hlen : i = 0 ∨ s.rpos.toNat + 8 * i ≤ 8 * s.rs.len) (hbound : s.rsBound = true)
    (hans : ∀ a ∈ s.rdAns.take i, a = .ok) (hsilent : s.rdAns[i]? = some .silent) :
    ∃ t, exec (.rdchunk w) s = .next t ∧ t.turn = .rsResponder ∧ SameResponse s t ∧ t.chPoison = false ∧
      t.rpos.toNat = s.rpos.toNat + 8 * i ∧ ReadFrame (i + 1) s t ∧ t.stores = s.stores ∧
      (∀ j, ceil8 w.toNat ≤ j → t.cb[j]? = s.cb[j]?) := by
  have h8i := lt_ceil8_iff.1 hi
  obtain ⟨rest, hreqs⟩ := chunkReqs_split hi
  obtain ⟨cb, hloop⟩ := readLoop_full i (min (w.toNat - 8 * i) 8 :: rest) 0 0
    (s.fillCb (List.replicate (ceil8 w.toNat) 0)) (by rw [fillCb_rpos]; omega) (by rwa [fillCb_rpos, fillCb_rs]) hans
  have hrest : (s.fillCb (List.replicate (ceil8 w.toNat) 0)).afterReads i cb = s.afterReads i cb := rfl
  have hpos : (s.afterReads i cb).rpos.toNat = s.rpos.toNat + 8 * i := afterReads_rpos_toNat cb (by omega)
  have hnext : (s.afterReads i cb).nextRead = .silent := by
    simp [State.afterReads, State.nextRead, hbound, List.headD_eq_head?_getD, List.head?_drop, hsilent]
  have hread := readBits_silent (count := min (w.toNat - 8 * i) 8) (by rw [hpos]; omega) hnext
  have hexec := exec_rdchunk_run (by omega) hw hs
  rw [runRdchunk, hreqs, hloop, hrest, readLoop, hread] at hexec
  obtain ⟨hframe, _, hcb⟩ := rdchunk_frame hexec
  have hstill : s.rsStill (i + 1) := by
    intro a ha
    rw [List.take_add_one, hsilent] at ha
    rcases List.mem_append.1 ha with ha | ha
    · rw [hans a ha]; rfl
    · rw [List.mem_singleton.1 ha]; rfl
  exact ⟨_, hexec, rfl, ⟨rfl, rfl, rfl, rfl, rfl⟩, hs, hpos,
    { hframe with answers := ⟨i + 1, Nat.le_refl _, List.tail_drop, (storesAfter_still hstill).symm⟩ }, rfl, hcb⟩

theorem wrchunk_unanswered {s : State} {w : BitVec 16} {i : Nat} {landed : Bool} (hs : s.chPoison = false)
    (h1 : 1 ≤ w.toNat) (hw : w.toNat ≤ s.par.wMax) (hi : i < (s.pcnt.toNat + w.toNat) / 8)
    (hans : ∀ j, j < i → s.appendAnswer j = .ok) (hsilent : s.appendAnswer i = .silent landed) :
    ∃ t, exec (.wrchunk w) s = .next t ∧ t.turn = .wsResponder ∧ SameResponse s t ∧ t.chPoison = false ∧
      t.stores.ws.len = s.stores.ws.len + i + (if landed then 1 else 0) ∧
      WriteFrame ((s.pcnt.toNat + w.toNat) / 8) s t := by
  have hp : s.pcnt.toNat < 8 := s.pcnt.isLt
  obtain ⟨rest, hreqs⟩ := chunkReqs_split (w := w.toNat) (i := i) (lt_ceil8_iff.2 (by omega))
  obtain ⟨u, hloop, hcnt, hlater, hlen⟩ := writeLoop_full i (min (w.toNat - 8 * i) 8 :: rest) 0 0 s hans
  have hnext : u.nextAppend = .silent landed := (hlater 0).trans hsilent
  have hwrite := writeBits_silent (count := min (w.toNat - 8 * i) 8) (u.cbByte (0 + i)) (by rw [hcnt]; omega) hnext
  obtain ⟨_, _, hsame, hpoison⟩ := writeLoop_frame (chunkReqs w.toNat) 0 0 s hs
  rw [hreqs, hloop, writeLoop, hwrite] at hsame hpoison
  have hexec := exec_wrchunk_run h1 hw hs
  rw [runWrchunk, hreqs, hloop, writeLoop, hwrite] at hexec
  refine ⟨_, hexec, rfl, { hsame with }, by simpa [endChunk] using hpoison, ?_, wrchunk_frame hexec⟩
  cases landed <;> simp [endChunk, hlen]

/-- Settles O32: a single request is not answered, or the requests of a chunk before it are and the chunk stops
there. -/
theorem unansweredCommandDoesNotEnd : Obligations.UnansweredCommandDoesNotEnd :=
  fun _ hs =>
    ⟨fun _ => rdbits_unanswered hs, fun _ data _ => wrbits_unanswered data hs, fun data _ => flush_unanswered data hs,
      fun _ _ => rdchunk_unanswered hs, fun _ _ _ => wrchunk_unanswered hs⟩

end Sys2Proof.Machine
end

section
/-! PROOFS. The stores behind the two ports: what one request on each answers and leaves in the stores, and the steps that
take the host's word or binding (R62, R64, R70, R72, R76, R223, R239). -/

namespace Sys2Proof.Machine

/-! ### Steps of an idle block -/

theorem step_of_decode {s : State} {c : Word} {q : List HostEvent} {i : Instr} (hturn : s.turn = .host)
    (hq : s.hostq = .cmd c :: q) (hdec : decode c = .ok i) : step s = exec i (s.taken q) := by
  simp only [step, hq, if_pos hturn, hdec]

theorem step_of_bind {s : State} {st : Stores} {r w : Bool} {q : List HostEvent} (hturn : s.turn = .host)
    (hq : s.hostq = .bind st r w :: q) : step s = .next ((s.taken q).bound st r w) := by
  simp only [step, hq, if_pos hturn]

/-- Settles O6: taking the word from the queue is all a step adds to the command. -/
theorem stepRunsTheDecodedCommand : Obligations.StepRunsTheDecodedCommand :=
  fun _ _ _ _ hturn hq hdec => step_of_decode hturn hq hdec

/-! ### StoreRead -/

/-- A read that the store answers without error delivers the bytes that RS has at that read (R62, R72). -/
theorem storeRead_answered (a n : Nat) {s : State} (herr : s.nextRead ≠ .err) (hsilent : s.nextRead ≠ .silent) :
    (storeRead a n s).1 = .bytes (min n (s.rdNext.rs.len - a)) ((s.rdNext.rs.read? a).getD 0)
      ((s.rdNext.rs.read? (a + 1)).getD 0) := by
  unfold storeRead
  cases h : s.nextRead with
  | ok | okAfter => rfl
  | err => exact absurd h herr
  | silent => exact absurd h hsilent

theorem storeRead_err (a n : Nat) {s : State} (h : s.nextRead = .err) : (storeRead a n s).1 = .err := by
  simp only [storeRead, h]

/-- An address below the store's length holds a byte. -/
theorem bytes_getElem?_of_lt {m : Memory} (h : Memory.wf m) {a : Nat} (ha : a < m.len) :
    m.bytes[a]? = some ((m.read? a).getD 0) := by
  rw [← bytes_length] at ha
  rw [read?_eq_getElem? h, List.getElem?_eq_getElem ha, Option.getD_some]

/-- Another party changes RS only under a port that a store is bound to. -/
theorem rsBound_of_nextRead_okAfter {s : State} {rs : Memory} (h : s.nextRead = .okAfter rs) : s.rsBound = true := by
  by_contra hb
  simp [State.nextRead, hb] at h

theorem rdNext_stores_of_okAfter {s : State} {rs : Memory} (h : s.nextRead = .okAfter rs) :
    s.rdNext.stores = s.stores.withRs rs := by
  simp only [State.rdNext, Stores.seenAt, h]

/-- A read sees RS as another party has made it since the read before (R72). -/
theorem rdNext_rs_of_okAfter {s : State} {rs : Memory} (h : s.nextRead = .okAfter rs) : s.rdNext.rs = rs := by
  simp [State.rs, rsBound_of_nextRead_okAfter h, rdNext_stores_of_okAfter h]

/-- Without a change by another party a read leaves both stores (R61, R62). -/
theorem rdNext_stores {s : State} (h : ∀ rs, s.nextRead ≠ .okAfter rs) : s.rdNext.stores = s.stores := by
  rcases rdNext_stores_cases s with ⟨_, e⟩ | ⟨rs, e, _⟩
  · exact e
  · exact absurd e (h rs)

/-- Settles O12: the answer is of RS at that read, and only the answer `okAfter` changes a store. -/
theorem storeReadAnswersWhatExists : Obligations.StoreReadAnswersWhatExists := by
  intro a n s hwf hn
  rw [storeRead_state]
  refine ⟨storeRead_err a n,
    fun herr hsilent => ⟨_, _, _, storeRead_answered a n herr hsilent, rfl, fun hk => ?_, fun hk => ?_⟩, rfl,
    fun h => ⟨rdNext_rs h, rdNext_stores h⟩, fun rs h => ⟨rdNext_rs_of_okAfter h, rdNext_stores_ws⟩⟩
  · exact bytes_getElem?_of_lt hwf (by omega)
  · exact bytes_getElem?_of_lt hwf (by omega)

/-! ### StoreAppend -/

theorem storeAppend_ok (b : Byte) {s : State} (h : s.nextAppend = .ok) :
    storeAppend b s = (.ok, s.wrNext.land true b) := by
  simp only [storeAppend, h]

theorem storeAppend_err (b : Byte) {s : State} {landed : Bool} (h : s.nextAppend = .err landed) :
    storeAppend b s = (.err, s.wrNext.land landed b) := by
  simp only [storeAppend, h]

theorem storeAppend_silent (b : Byte) {s : State} {landed : Bool} (h : s.nextAppend = .silent landed) :
    storeAppend b s = (.silent, s.wrNext.land landed b) := by
  simp only [storeAppend, h]

/-- Everything `StoreAppend` can do (R64, R236). -/
theorem storeAppend_cases (b : Byte) (s : State) :
    storeAppend b s = (.ok, s.wrNext.land true b) ∨
    (∃ landed, storeAppend b s = (.err, s.wrNext.land landed b)) ∨
    (∃ landed, storeAppend b s = (.silent, s.wrNext.land landed b)) := by
  cases h : s.nextAppend with
  | ok => exact .inl (storeAppend_ok b h)
  | err l => exact .inr (.inl ⟨l, storeAppend_err b h⟩)
  | silent l => exact .inr (.inr ⟨l, storeAppend_silent b h⟩)

theorem land_ws_bytes (s : State) (landed : Bool) (b : Byte) :
    (s.land landed b).stores.ws.bytes = if landed then s.stores.ws.bytes ++ [b] else s.stores.ws.bytes := by
  cases landed <;> simp

theorem land_ws_len (s : State) (landed : Bool) (b : Byte) :
    (s.land landed b).stores.ws.len = s.stores.ws.len + if landed then 1 else 0 := by
  cases landed <;> simp

/-- On a port that can take a byte the listed answer is the answer (R66). -/
theorem nextAppend_of_canTake {s : State} (h : s.canTake 1) : s.nextAppend = s.wrAns.headD .ok := by
  have hanswer : s.nextAppend = s.wrAns.getD 0 .ok := by
    rcases appendAnswer_cases s 0 with ⟨_, e⟩ | ⟨hfull, _⟩
    · exact e
    · exact absurd h hfull
  rw [hanswer]
  cases s.wrAns <;> rfl

/-- Settles O13: the byte lands on ok, and on err as the responder chooses. -/
theorem storeAppendAppendsOneByte : Obligations.StoreAppendAppendsOneByte := by
  refine fun b s => ⟨fun t h => ?_, fun t h => ?_, fun hroom landed => ?_⟩
  · rcases storeAppend_cases b s with e | ⟨_, e⟩ | ⟨_, e⟩ <;> rw [e] at h <;> cases h
    exact land_ws_bytes s.wrNext true b
  · rcases storeAppend_cases b s with e | ⟨landed, e⟩ | ⟨_, e⟩ <;> rw [e] at h <;> cases h
    cases landed with
    | false => exact .inl (land_ws_bytes s.wrNext false b)
    | true => exact .inr (land_ws_bytes s.wrNext true b)
  · have hans : State.nextAppend { s with wrAns := [.err landed] } = .err landed := nextAppend_of_canTake hroom
    exact ⟨_, storeAppend_err b hans, land_ws_bytes ..⟩

/-! ### Both ports on one store -/

/-- Settles O14: with one store behind both ports the append is one of RS; with two it is one of WS alone. -/
theorem aliasedReadsSeeAppends : Obligations.AliasedReadsSeeAppends := by
  intro st b hwf
  cases st with
  | separate rs ws => exact ⟨fun ha => (nomatch ha), fun _ => rfl⟩
  | shared m => exact ⟨fun _ => ⟨rfl, append_read?_self hwf.2 b, append_len m b⟩, fun ha => (nomatch ha)⟩

end Sys2Proof.Machine
end

section
/-! PROOFS. The bits accepted on the write side reach WS in order: a FLUSH, the requests of a chunk, and the append that
fails (R64, R74, R119, R136, R137). -/

namespace Sys2Proof.Machine

/-! ### FLUSH -/

/-- With no bit pending the accepted bits are those of WS. -/
theorem writtenBits_of_pcnt_eq_zero {s : State} (h : s.pcnt = 0) : s.writtenBits = streamBits s.stores.ws.bytes := by
  simp [State.writtenBits, h]

/-- A byte with nothing below its first bit is zero. -/
theorem eq_zero_of_and_not_himask_zero {b : Byte} (h : b &&& ~~~ himask 0 = 0#8) : b = 0 := by
  rwa [show ~~~ himask 0 = BitVec.allOnes 8 by decide, BitVec.and_allOnes] at h

/-- With no bit pending nothing at all stands in the accumulator (R25). -/
theorem pbits_eq_zero_of_pcnt_eq_zero {s : State} (hs : s.chPoison = false) (ha : s.accumulatorOk) (h : s.pcnt = 0) :
    s.pbits = 0 := by
  have hlow := ha hs
  rw [h] at hlow
  exact eq_zero_of_and_not_himask_zero hlow

theorem byteBits_zero : byteBits 0 = List.replicate 8 false := by decide

/-- Settles O21: a FLUSH of pending bits is a write of as many zero bits as fill the byte, which leaves none pending. -/
theorem flushPadsTheStreamToAByte : Obligations.FlushPadsTheStreamToAByte := by
  intro s data hs ha hans
  by_cases hp : s.pcnt = 0
  · have hpad : (8 - s.pcnt.toNat) % 8 = 0 := by simp [hp]
    have hexec : exec (.flush data) s = .next (s.reject .ok) := by
      simp only [exec_channel (i := .flush data) rfl, channelAnswer, hs, if_pos hp]; rfl
    refine ⟨_, hexec, hp, (if_pos hp).symm, ?_⟩
    rw [hpad, List.replicate_zero, List.append_nil, writtenBits_of_pcnt_eq_zero hp]; rfl
  · have hans : s.nextAppend = .ok := hans.resolve_left hp
    have hpos : 0 < s.pcnt.toNat := by bv_omega
    have hlt : s.pcnt.toNat < 8 := s.pcnt.isLt
    obtain ⟨n, t, hwrite⟩ := writeBits_ok (count := 8 - s.pcnt.toNat) (data := 0) (.inr hans)
    obtain ⟨hbits, hacc, hcnt, _⟩ := writeBits_accepts hs ha (Nat.sub_le ..) hwrite
    obtain ⟨_, _, _, hpoison⟩ := writeBits_frame (8 - s.pcnt.toNat) 0 s hs
    rw [hwrite] at hpoison
    have hnone : t.pcnt = 0 := BitVec.eq_of_toNat_eq (by rw [hcnt, Nat.add_sub_cancel' (Nat.le_of_lt hlt)]; rfl)
    have hpbits : t.pbits = 0 := pbits_eq_zero_of_pcnt_eq_zero (by simpa using hpoison) hacc hnone
    have hexec : exec (.flush data) s = .next (t.respond .ok n 0 0 0) := by
      rw [exec_flush_run data hs hp, padPending, hwrite]; rfl
    refine ⟨_, hexec, hnone, hpbits.trans (if_neg hp).symm, ?_⟩
    rw [respond_stores, ← writtenBits_of_pcnt_eq_zero hnone, hbits, byteBits_zero, List.take_replicate,
      Nat.min_eq_left (Nat.sub_le ..), Nat.mod_eq_of_lt (by omega : 8 - s.pcnt.toNat < 8)]

/-! ### The requests of a chunk, one by one -/

theorem ceil8_of_pos {w : Nat} (h : 0 < w) : ceil8 w = ceil8 (w - 8) + 1 := by
  unfold ceil8; omega

/-- The first request of a chunk, and the chunk that is left (R131). -/
theorem chunkReqs_of_pos {w : Nat} (h : 0 < w) : chunkReqs w = min w 8 :: chunkReqs (w - 8) := by
  unfold chunkReqs
  rw [ceil8_of_pos h, List.range_succ_eq_map, List.map_cons, List.map_map]
  congr 1
  refine List.map_congr_left fun i _ => ?_
  simp only [Function.comp_apply]
  omega

theorem chunkReqs_mul_eight (n : Nat) : chunkReqs (8 * n) = List.replicate n 8 := by
  induction n with
  | zero => rfl
  | succ n ih =>
    rw [chunkReqs_of_pos (by omega), show 8 * (n + 1) - 8 = 8 * n by omega, ih, List.replicate_succ]
    congr 1; omega

theorem streamBits_cons (b : Byte) (bs : List Byte) : streamBits (b :: bs) = byteBits b ++ streamBits bs := by
  simp [streamBits]

@[simp] theorem streamBits_length (bs : List Byte) : (streamBits bs).length = 8 * bs.length := by
  induction bs with
  | nil => rfl
  | cons b bs ih => simp [streamBits_cons, ih]; omega

theorem drop_streamBits (i : Nat) (bs : List Byte) : (streamBits bs).drop (8 * i) = streamBits (bs.drop i) := by
  induction i generalizing bs with
  | zero => rfl
  | succ i ih =>
    cases bs with
    | nil => simp [streamBits]
    | cons b bs =>
      rw [streamBits_cons, show 8 * (i + 1) = (byteBits b).length + 8 * i by rw [byteBits_length]; omega,
        ← List.drop_drop, List.drop_left, ih, List.drop_succ_cons]

/-- The first `w` bits from byte `i` of the buffer on, taken off byte by byte (R136). -/
theorem take_streamBits_drop (s : State) {i : Nat} (w : Nat) (hi : i < s.cb.length) :
    (streamBits (s.cb.drop i)).take w =
      (byteBits (s.cbByte i)).take (min w 8) ++ (streamBits (s.cb.drop (i + 1))).take (w - 8) := by
  have hbyte : s.cbByte i = s.cb[i] := by simp [State.cbByte, hi]
  rw [List.drop_eq_getElem_cons hi, streamBits_cons, List.take_append, byteBits_length, hbyte, ← List.take_take,
    List.take_of_length_le (l := byteBits _) (i := 8) (by simp)]

/-- The chunk's bits up to and with those of request number `i`. -/
theorem take_streamBits_request (s : State) {i req : Nat} (hi : i < s.cb.length) (hreq : req ≤ 8) :
    (streamBits s.cb).take (8 * i) ++ (byteBits (s.cbByte i)).take req = (streamBits s.cb).take (8 * i + req) := by
  rw [List.take_add, drop_streamBits, take_streamBits_drop s req hi, Nat.min_eq_left hreq, Nat.sub_eq_zero_of_le hreq,
    List.take_zero, List.append_nil]

/-- A loop of WRCHUNK that runs to its end has had its first request accepted. -/
theorem writeLoop_cons_ran {req i total n : Nat} {reqs : List Nat} {s t : State}
    (h : writeLoop (req :: reqs) i total s = (.ran n, t)) :
    ∃ m u, writeBits req (s.cbByte i) s = (.sent m .ok, u) ∧ writeLoop reqs (i + 1) (total + req) u = (.ran n, t) := by
  rw [writeLoop] at h
  rcases writeBits_cases req (s.cbByte i) s with ⟨_, e⟩ | ⟨_, _, e⟩ | ⟨_, _, _, e⟩ | ⟨_, _, _, e⟩ <;> rw [e] at h
  · exact ⟨_, _, e, h⟩
  · exact ⟨_, _, e, h⟩
  · cases h
  · cases h

/-- WRCHUNK's loop goes on with the later requests where the earlier ones have ended. -/
theorem writeLoop_append {reqs : List Nat} {i total n : Nat} {s t : State} (later : List Nat)
    (h : writeLoop reqs i total s = (.ran n, t)) :
    writeLoop (reqs ++ later) i total s = writeLoop later (i + reqs.length) n t := by
  induction reqs generalizing i total s with
  | nil => obtain ⟨hn, rfl⟩ := Prod.mk.inj h; cases hn; rfl
  | cons req reqs ih =>
    obtain ⟨m, u, hwrite, hloop⟩ := writeLoop_cons_ran h
    rw [List.cons_append, writeLoop, hwrite, List.length_cons, Nat.add_comm reqs.length 1, ← Nat.add_assoc, ← ih hloop]
    rfl

/-- WRCHUNK's loop over all requests of `w` bits, if it runs to its end, has accepted the first `w` bits from byte `i` of
the buffer on (R136). -/
theorem writeLoop_accepts {w i total n : Nat} {s t : State} (hs : s.chPoison = false) (ha : s.accumulatorOk)
    (hcb : i + ceil8 w ≤ s.cb.length) (h : writeLoop (chunkReqs w) i total s = (.ran n, t)) :
    t.writtenBits = s.writtenBits ++ (streamBits (s.cb.drop i)).take w ∧ t.accumulatorOk := by
  induction w using Nat.strong_induction_on generalizing i total s with
  | _ w ih =>
    rcases Nat.eq_zero_or_pos w with rfl | hw
    · obtain ⟨_, rfl⟩ := Prod.mk.inj h
      exact ⟨by simp, ha⟩
    · rw [ceil8_of_pos hw] at hcb
      rw [chunkReqs_of_pos hw] at h
      obtain ⟨m, u, hwrite, hloop⟩ := writeLoop_cons_ran h
      obtain ⟨hframe, _, _, hpoison⟩ := writeBits_frame (min w 8) (s.cbByte i) s hs
      obtain ⟨hbits, hacc, _⟩ := writeBits_accepts hs ha (Nat.min_le_right ..) hwrite
      rw [hwrite] at hframe hpoison
      have hu : u.chPoison = false := by simpa using hpoison
      obtain ⟨hrest, hend⟩ := ih (w - 8) (by omega) hu hacc (by rw [hframe.cb]; omega) hloop
      refine ⟨?_, hend⟩
      rw [hrest, hbits, hframe.cb, take_streamBits_drop s w (by omega), List.append_assoc]

/-! ### The append that fails -/

/-- A write whose append fails: what landed or not is the next eight of the accepted bits (R64, R205). -/
theorem writeBits_err {count : Nat} (data : Byte) {s : State} {landed : Bool} (hs : s.chPoison = false)
    (ha : s.accumulatorOk) (hc : count ≤ 8) (h8 : 8 ≤ s.pcnt.toNat + count) (hans : s.nextAppend = .err landed) :
    ∃ t, writeBits count data s = (.sent 0 .ioFailure, t) ∧ t.chPoison = true ∧
      t.stores.ws.len = s.stores.ws.len + (if landed then 1 else 0) ∧
      streamBits t.stores.ws.bytes = (s.writtenBits ++ (byteBits data).take count).take (8 * t.stores.ws.len) := by
  have hp : s.pcnt.toNat < 8 := s.pcnt.isLt
  rcases writeBits_cases count data s with ⟨e, _⟩ | ⟨_, e, _⟩ | ⟨_, l, e, hwrite⟩ | ⟨_, l, e, _⟩
  · omega
  · rw [hans] at e; cases e
  · rw [hans] at e
    cases e
    refine ⟨_, hwrite, rfl, land_ws_len .., ?_⟩
    have hsent := (writeShift_sent s.pbits data hp hc (ha hs) h8).1
    have hlen : (streamBits s.stores.ws.bytes).length = 8 * s.stores.ws.len := by rw [streamBits_length, bytes_length]
    rw [poison_stores, land_ws_bytes, land_ws_len, State.writtenBits, List.append_assoc, ← hsent, ← List.append_assoc]
    cases landed with
    | false =>
      rw [List.append_assoc]
      exact (List.take_left' hlen).symm
    | true =>
      simp only [if_true, wrNext_stores, streamBits_append_byte]
      exact (List.take_left' (by simp [hlen, Nat.mul_add])).symm
  · rw [hans] at e; cases e

/-- WRCHUNK's loop over requests for 8 bits whose appends are all taken, and what it has accepted (R136). -/
theorem writeLoop_full_accepts {n : Nat} {s : State} (hs : s.chPoison = false) (ha : s.accumulatorOk)
    (hcb : n ≤ s.cb.length) (hans : ∀ j, j < n → s.appendAnswer j = .ok) :
    ∃ u, writeLoop (chunkReqs (8 * n)) 0 0 s = (.ran (8 * n), u) ∧ u.chPoison = false ∧ u.accumulatorOk ∧
      u.cb = s.cb ∧ u.pcnt = s.pcnt ∧ u.nextAppend = s.appendAnswer n ∧ u.stores.ws.len = s.stores.ws.len + n ∧
      u.writtenBits = s.writtenBits ++ (streamBits s.cb).take (8 * n) := by
  obtain ⟨u, hran, hcnt, hlater, hlen⟩ := writeLoop_full n [] 0 0 s hans
  rw [List.append_nil, ← chunkReqs_mul_eight, writeLoop, Nat.zero_add] at hran
  obtain ⟨hbits, hacc⟩ := writeLoop_accepts hs ha (by unfold ceil8; omega) hran
  obtain ⟨hframe, _, _, hpoison⟩ := writeLoop_frame (chunkReqs (8 * n)) 0 0 s hs
  rw [hran] at hframe hpoison
  exact ⟨u, hran, by simpa using hpoison, hacc, hframe.cb, hcnt, hlater 0, hlen, hbits⟩

/-- WRCHUNK's loop whose append number `i` fails: the appends before it are those of full requests, whose bits are accepted,
and the failing request's byte is the next eight of the accepted bits and its own (R64, R137). -/
theorem writeLoop_err {w i : Nat} {landed : Bool} {s : State} (hs : s.chPoison = false) (ha : s.accumulatorOk)
    (hcb : ceil8 w ≤ s.cb.length) (hi : i < (s.pcnt.toNat + w) / 8) (hans : ∀ j, j < i → s.appendAnswer j = .ok)
    (herr : s.appendAnswer i = .err landed) :
    ∃ t, writeLoop (chunkReqs w) 0 0 s = (.failed (8 * i), t) ∧ t.chPoison = true ∧
      t.stores.ws.len = s.stores.ws.len + i + (if landed then 1 else 0) ∧
      streamBits t.stores.ws.bytes = (s.writtenBits ++ s.cbBits w).take (8 * t.stores.ws.len) := by
  have hp : s.pcnt.toNat < 8 := s.pcnt.isLt
  have hic : i < ceil8 w := lt_ceil8_iff.2 (by omega)
  obtain ⟨rest, hreqs⟩ := chunkReqs_split hic
  obtain ⟨u, hran, hu, hacc, hcbu, hcnt, hnext, hlen, hbits⟩ := writeLoop_full_accepts hs ha (by omega) hans
  generalize hreq : min (w - 8 * i) 8 = req at hreqs
  obtain ⟨t, hwrite, ht, htlen, htbits⟩ := writeBits_err (count := req) (u.cbByte i) hu hacc (by omega)
    (by rw [hcnt]; omega) (hnext.trans herr)
  have hloop : writeLoop (chunkReqs w) 0 0 s = (.failed (8 * i), t) := by
    have hceil : ceil8 (8 * i) = i := by unfold ceil8; omega
    rw [hreqs, ← chunkReqs_mul_eight, writeLoop_append _ hran, chunkReqs_length, hceil, Nat.zero_add, writeLoop, hwrite]
    simp
  rw [hlen] at htlen
  refine ⟨t, hloop, ht, htlen, ?_⟩
  have hlanded : (if landed then 1 else 0) ≤ 1 := by cases landed <;> decide
  have hwritten : s.writtenBits.length = 8 * s.stores.ws.len + s.pcnt.toNat := by
    simp [State.writtenBits, bytes_length]; omega
  have hbyte : u.cbByte i = s.cbByte i := by simp only [State.cbByte, hcbu]
  -- of the chunk's bits those up to the failing request's are enough for the bytes in WS
  have hprefix : (streamBits s.cb).take (8 * i + req) = (s.cbBits w).take (8 * i + req) := by
    rw [State.cbBits, List.take_take, Nat.min_eq_left (by omega)]
  rw [htbits, hbits, hbyte, List.append_assoc, take_streamBits_request s (by omega) (by omega), hprefix, List.take_append,
    List.take_append, List.take_take, Nat.min_eq_left (by omega)]

/-- Settles O29: WRCHUNK responds as its loop has ended, and its frame holds however it ends. -/
theorem wrchunkFailureCountsAcceptedBits : Obligations.WrchunkFailureCountsAcceptedBits := by
  intro s w i landed hw hcblen hs ha hi hans herr h1
  have hbuf : ceil8 w.toNat ≤ s.cb.length := by rw [hcblen, pbMax]; exact Nat.div_le_div_right (by omega)
  obtain ⟨t, hloop, ht, hlen, hbits⟩ := writeLoop_err hs ha hbuf hi hans herr
  have hexec : exec (.wrchunk w) s = .next (t.failIo (8 * i)) := by
    rw [exec_wrchunk_run h1 hw hs, runWrchunk, hloop]; rfl
  have hpcnt : s.pcnt.toNat < 8 := s.pcnt.isLt
  have hcount : (BitVec.ofNat 16 (8 * i)).toNat = 8 * i := Nat.mod_eq_of_lt (by omega)
  exact ⟨_, hexec, ⟨rfl, hcount, rfl, rfl, rfl⟩, ht, hlen, hbits, wrchunk_frame hexec⟩

end Sys2Proof.Machine
end

section
/-! PROOFS. The ports as they are bound, and the read side on RS as it is at each read: unbound ports, a full shared store,
and a chunk before each of whose reads another party changes RS (R61, R72, R76, R223, R239). -/

namespace Sys2Proof.Machine

/-! ### What a read delivers -/

/-- A byte of the read shifter that the fetched bytes reach holds the stream's bit (R112, R114). -/
theorem readShift_stream (m : Memory) {pos k j : Nat} (hj : j < 8) (hk : pos % 8 + j < 8 * k) :
    (readShift k ((m.read? (pos / 8)).getD 0) ((m.read? (pos / 8 + 1)).getD 0) (pos % 8)).getLsbD (7 - j) =
      Memory.bit m (pos + j) := by
  rw [readShift_bit _ _ _ (Nat.mod_lt _ (by decide)) hj, Memory.bit]
  split
  · next h =>
    have hbyte : (pos + j) / 8 = pos / 8 := by omega
    have hbit : (pos + j) % 8 = pos % 8 + j := by omega
    rw [decide_eq_true (by omega : 1 ≤ k), Bool.true_and, hbyte, hbit]
  · next h =>
    have hbyte : (pos + j) / 8 = pos / 8 + 1 := by omega
    have hbit : 15 - (pos % 8 + j) = 7 - (pos + j) % 8 := by omega
    rw [decide_eq_true (by omega : 2 ≤ k), Bool.true_and, hbyte, hbit]

/-- A read that is answered without error delivers the bits that RS has at that read, up to `count` of them, and zeros
after them (R72, R114). -/
theorem readBits_delivers {count : Nat} {s : State} (hc : count ≤ 8) (hfit : s.rpos.toNat + count ≤ 2 ^ 64 - 1)
    (herr : s.nextRead ≠ .err) (hsilent : s.nextRead ≠ .silent) :
    ∃ n b, n = min count (8 * s.rdNext.rs.len - s.rpos.toNat) ∧
      readBits count s = (.got n b (readStatus count n), s.rdNext.advance n) ∧
      ∀ j, j < 8 → b.getLsbD (7 - j) = (decide (j < n) && Memory.bit s.rdNext.rs (s.rpos.toNat + j)) := by
  have hmin := min_availBits s s.rdNext.rs.len hc
  rcases readBits_cases count s with ⟨e, _⟩ | ⟨_, e, _⟩ | ⟨_, e, _⟩ | ⟨_, _, k, d0, d1, hk, rfl, rfl, e⟩
  · rw [not_cursorOverflows hfit] at e; cases e
  · exact absurd e herr
  · exact absurd e hsilent
  · refine ⟨_, _, hk ▸ hmin, e, fun j hj => ?_⟩
    rw [and_himask_bit _ (Nat.le_trans (Nat.min_le_left ..) hc) hj, Bool.and_comm]
    by_cases hlt : j < min count (availBits k s.rposBit)
    · have hreach : s.rpos.toNat % 8 + j < 8 * k := by
        rw [rposBit_eq, availBits] at hlt; omega
      rw [rposByte_eq, rposBit_eq, readShift_stream _ hj hreach]
    · simp [hlt]

/-! ### Unbound and full ports -/

theorem nextRead_of_unbound {s : State} (h : s.rsBound = false) : s.nextRead = .ok := by simp [State.nextRead, h]

theorem rs_of_unbound {s : State} (h : s.rsBound = false) : s.rs = [] := by simp [State.rs, h]

/-- A read that is answered `ok` takes its answer and leaves the stores (R62). -/
theorem rdNext_of_ok {s : State} (h : s.nextRead = .ok) : s.rdNext = { s with rdAns := s.rdAns.tail } := by
  simp only [State.rdNext, Stores.seenAt, h]

theorem storeRead_unbound {s : State} (h : s.rsBound = false) (a n : Nat) :
    storeRead a n s = (.bytes 0 0 0, { s with rdAns := s.rdAns.tail }) := by
  have hok := nextRead_of_unbound h
  have hrs : s.rdNext.rs = [] := rs_of_unbound h
  have hrsp := storeRead_answered a n (s := s) (by simp [hok]) (by simp [hok])
  simp only [hrs, Memory.len, Memory.read?, List.length_nil, Nat.zero_sub, Nat.min_zero, List.lookup_nil,
    Option.getD_none] at hrsp
  exact Prod.ext hrsp ((storeRead_state a n s).trans (rdNext_of_ok hok))

/-- RDBITS on an unbound read port ends with END_OF_STREAM (R223). -/
theorem rdbits_unbound {s : State} (h : s.rsBound = false) {count : BitVec 4} (h1 : 1 ≤ count.toNat)
    (h8 : count.toNat ≤ 8) (hs : s.chPoison = false) (hfit : s.rpos.toNat + count.toNat ≤ 2 ^ 64 - 1) :
    exec (.rdbits count) s =
      .next { s with rdAns := s.rdAns.tail, rStat := 2, rBits := 0, rByte := 0, rVal := 0, rIdx := 0 } := by
  have hok := nextRead_of_unbound h
  obtain ⟨n, b, hn, hread, hbits⟩ := readBits_delivers h8 hfit (by simp [hok]) (by simp [hok])
  have hrs : s.rdNext.rs = [] := rs_of_unbound h
  obtain rfl : n = 0 := by rw [hn, hrs]; simp [Memory.len]
  have hb : b = 0 := eq_zero_of_and_not_himask_zero <|
    (and_not_himask_eq_zero_iff b (Nat.zero_le 8)).2 fun j _ hj => by simpa using hbits j hj
  have hstat : readStatus count.toNat 0 = .endOfStream := by
    rw [readStatus, if_neg (by omega), if_pos rfl]
  have hadvance : s.rdNext.advance 0 = { s with rdAns := s.rdAns.tail } := by
    rw [rdNext_of_ok hok]; simp [State.advance]
  rw [exec_rdbits_run h1 h8 hs, hread, hb, hstat, hadvance]; rfl

theorem storeAppend_unbound {s : State} (h : s.wsBound = false) (b : Byte) :
    storeAppend b s = (.err, { s with wrAns := s.wrAns.tail }) :=
  storeAppend_err (landed := false) b (by simp [State.nextAppend, State.appendAnswer, h])

/-- Where the byte would make RS too long it does not land: the answer is `err`, or none where none is listed to come
(R61, R236). -/
theorem nextAppend_of_full {s : State} (hb : s.wsBound = true) (hroom : s.stores.hasRoom 1 = false) :
    s.nextAppend = (s.wrAns.head?.getD .ok).withoutRoom := by
  rw [State.nextAppend, State.appendAnswer, if_pos hb, hroom, List.head?_eq_getElem?, List.getD_eq_getElem?_getD]
  rfl

theorem withoutRoom_of_answered {a : AppendAnswer} (h : ∀ landed, a ≠ .silent landed) : a.withoutRoom = .err false := by
  cases a with
  | ok | err => rfl
  | silent l => exact absurd rfl (h l)

theorem storeAppend_full {s : State} (hb : s.wsBound = true) (hroom : s.stores.hasRoom 1 = false) (b : Byte) :
    (∀ landed, s.wrAns.head? = some (.silent landed) →
      storeAppend b s = (.silent, { s with wrAns := s.wrAns.tail })) ∧
    ((∀ landed, s.wrAns.head? ≠ some (.silent landed)) →
      storeAppend b s = (.err, { s with wrAns := s.wrAns.tail })) := by
  have hnext := nextAppend_of_full hb hroom
  refine ⟨fun landed h => storeAppend_silent (landed := false) b ?_, fun h => storeAppend_err (landed := false) b ?_⟩
  · rw [hnext, h]; rfl
  · refine hnext.trans (withoutRoom_of_answered fun landed e => ?_)
    cases hhead : s.wrAns.head? with
    | none => rw [hhead] at e; cases e
    | some a => rw [hhead] at e; exact h landed (hhead.trans (congrArg some e))

/-! ### A chunk before each of whose reads another party changes RS -/

/-- A read that is answered on an RS that another party has made long enough delivers all its bits from that RS (R72). -/
theorem readBits_okAfter {req : Nat} {s : State} {m : Memory} (hreq : req ≤ 8)
    (hfit : s.rpos.toNat + req ≤ 2 ^ 64 - 1) (hans : s.nextRead = .okAfter m) (hlen : s.rpos.toNat + req ≤ 8 * m.len) :
    ∃ b, readBits req s = (.got req b .ok, s.rdNext.advance req) ∧
      ∀ j, j < req → b.getLsbD (7 - j) = Memory.bit m (s.rpos.toNat + j) := by
  obtain ⟨n, b, hn, hread, hbits⟩ := readBits_delivers hreq hfit (by simp [hans]) (by simp [hans])
  rw [rdNext_rs_of_okAfter hans] at hn hbits
  obtain rfl : n = req := by omega
  rw [readStatus, if_pos rfl] at hread
  exact ⟨b, hread, fun j hj => by rw [hbits j (by omega), decide_eq_true hj, Bool.true_and]⟩

/-- One request of RDCHUNK's loop that such a read answers: its byte is in the buffer and the loop goes on (R132). -/
theorem readLoop_okAfter {req i : Nat} {s : State} {m : Memory} (reqs : List Nat) (total : Nat) (hreq : req ≤ 8)
    (hi : i < s.cb.length) (hfit : s.rpos.toNat + req ≤ 2 ^ 64 - 1) (hans : s.nextRead = .okAfter m)
    (hlen : s.rpos.toNat + req ≤ 8 * m.len) :
    ∃ u, readLoop (req :: reqs) i total s = readLoop reqs (i + 1) (total + req) u ∧ u.chPoison = s.chPoison ∧
      u.rsBound = s.rsBound ∧ u.cb.length = s.cb.length ∧ u.rdAns = s.rdAns.tail ∧
      u.rpos.toNat = s.rpos.toNat + req ∧ u.rs = m ∧
      ∀ j, j < req → (u.cbByte i).getLsbD (7 - j) = Memory.bit m (s.rpos.toNat + j) := by
  obtain ⟨b, hread, hbits⟩ := readBits_okAfter hreq hfit hans hlen
  have hbyte : ((s.rdNext.advance req).setCb i b).cbByte i = b := by simp [State.cbByte, hi]
  refine ⟨(s.rdNext.advance req).setCb i b, ?_, rfl, rfl, List.length_set .., rfl, ?_, ?_, fun j hj => ?_⟩
  · rw [readLoop, hread]; simp
  · simp only [setCb_rpos, advance_rpos, rdNext_rpos, BitVec.toNat_add, BitVec.toNat_ofNat]; omega
  · rw [setCb_rs, advance_rs, rdNext_rs_of_okAfter hans]
  · rw [hbyte]; exact hbits j hj

/-- RDCHUNK's loop leaves the bytes of the requests made before. -/
theorem readLoop_cbByte_of_lt {reqs : List Nat} {i j total : Nat} {s : State} (hs : s.chPoison = false) (hj : j < i) :
    (readLoop reqs i total s).2.cbByte j = s.cbByte j := by
  obtain ⟨_, _, hkept, _⟩ := readLoop_frame reqs i total s hs
  simp only [State.cbByte, List.getD_eq_getElem?_getD, hkept j (.inl hj)]

/-- The answers of an RS responder before whose next `n` answers another party makes RS `f 0`, `f 1` and so on (R72). -/
def changingAnswers (f : Nat → Memory) (n : Nat) : List ReadAnswer := (List.range n).map fun i => .okAfter (f i)

theorem changingAnswers_succ (f : Nat → Memory) (n : Nat) :
    changingAnswers f (n + 1) = .okAfter (f 0) :: changingAnswers (fun i => f (i + 1)) n := by
  simp [changingAnswers, List.range_succ_eq_map, Function.comp_def]

/-- RDCHUNK's loop over all requests of `w` bits, where another party changes RS before each read: the bits of each byte are
those of RS at that byte's read (R72, R132). -/
theorem readLoop_changing {w i total : Nat} {s : State} {f : Nat → Memory} {rest : List ReadAnswer}
    (hs : s.chPoison = false) (hbound : s.rsBound = true) (hcb : i + ceil8 w ≤ s.cb.length)
    (hfit : s.rpos.toNat + w ≤ 2 ^ 64 - 1) (hlen : ∀ k, k < ceil8 w → s.rpos.toNat + w ≤ 8 * (f k).len)
    (hans : s.rdAns = changingAnswers f (ceil8 w) ++ rest) :
    ∃ t, readLoop (chunkReqs w) i total s = (.ran (total + w), t) ∧ t.rpos.toNat = s.rpos.toNat + w ∧
      t.rdAns = rest ∧ t.rs = (if w = 0 then s.rs else f (ceil8 w - 1)) ∧
      ∀ j, j < w → (t.cbByte (i + j / 8)).getLsbD (7 - j % 8) = Memory.bit (f (j / 8)) (s.rpos.toNat + j) := by
  induction w using Nat.strong_induction_on generalizing i total s f with
  | _ w ih =>
    rcases Nat.eq_zero_or_pos w with rfl | hw
    · exact ⟨s, rfl, rfl, hans, rfl, fun j h => absurd h (Nat.not_lt_zero j)⟩
    · have hceil := ceil8_of_pos hw
      rw [hceil] at hcb hlen hans
      rw [changingAnswers_succ, List.cons_append] at hans
      have hnext : s.nextRead = .okAfter (f 0) := by simp [State.nextRead, hbound, hans]
      have hlen0 := hlen 0 (Nat.succ_pos _)
      obtain ⟨u, hhead, hus, hub, hucb, huans, hupos, hurs, hubits⟩ := readLoop_okAfter (i := i)
        (chunkReqs (w - 8)) total (Nat.min_le_right w 8) (by omega) (by omega) hnext (by omega)
      obtain ⟨t, htail, htpos, htans, htrs, htbits⟩ := ih (w - 8) (by omega) (i := i + 1) (total := total + min w 8)
        (f := fun k => f (k + 1)) (hus.trans hs) (hub.trans hbound) (by omega) (by omega)
        (fun k hk => by have := hlen (k + 1) (by omega); omega) (by rw [huans, hans, List.tail_cons])
      have hkept := readLoop_cbByte_of_lt (reqs := chunkReqs (w - 8)) (total := total + min w 8) (hus.trans hs)
        (Nat.lt_succ_self i)
      rw [htail] at hkept
      refine ⟨t, ?_, by omega, htans, ?_, fun j hj => ?_⟩
      · rw [chunkReqs_of_pos hw, hhead, htail, Nat.add_assoc, show min w 8 + (w - 8) = w by omega]
      · rw [htrs, hurs, if_neg (by omega : ¬ w = 0), hceil, Nat.add_sub_cancel]
        split
        · next h => rw [h]; rfl
        · next h => rw [ceil8_of_pos (by omega : 0 < w - 8)]; rfl
      · by_cases h8 : j < 8
        · rw [Nat.div_eq_of_lt h8, Nat.mod_eq_of_lt h8, Nat.add_zero, hkept]
          exact hubits j (by omega)
        · have hbit := htbits (j - 8) (by omega)
          have hdiv : j / 8 = (j - 8) / 8 + 1 := by omega
          have hmod : j % 8 = (j - 8) % 8 := by omega
          have hpos : u.rpos.toNat + (j - 8) = s.rpos.toNat + j := by omega
          rwa [hpos, ← hmod, Nat.add_assoc, Nat.add_comm 1, ← hdiv] at hbit

/-- RDCHUNK before each of whose reads another party changes RS (R72, R132, R239). -/
theorem rdchunk_changing {s : State} {w : BitVec 16} {f : Nat → Memory} {rest : List ReadAnswer} (h1 : 1 ≤ w.toNat)
    (hw : w.toNat ≤ s.par.wMax) (hcb : s.cb.length = pbMax s.par) (hs : s.chPoison = false) (hbound : s.rsBound = true)
    (hfit : s.rpos.toNat + w.toNat ≤ 2 ^ 64 - 1)
    (hlen : ∀ i, i < ceil8 w.toNat → s.rpos.toNat + w.toNat ≤ 8 * (f i).len)
    (hans : s.rdAns = changingAnswers f (ceil8 w.toNat) ++ rest) :
    ∃ t, exec (.rdchunk w) s = .next t ∧ Responds t 0 w.toNat 0 0 0 ∧
      (∀ j, j < w.toNat → (t.cbByte (j / 8)).getLsbD (7 - j % 8) = Memory.bit (f (j / 8)) (s.rpos.toNat + j)) ∧
      t.rpos.toNat = s.rpos.toNat + w.toNat ∧ t.rs = f (ceil8 w.toNat - 1) ∧ t.rdAns = rest ∧
      ReadFrame (ceil8 w.toNat) s t := by
  have hbuf : ceil8 w.toNat ≤ s.cb.length := by rw [hcb, pbMax]; exact Nat.div_le_div_right (by omega)
  obtain ⟨t, hloop, hpos, htans, hrs, hbits⟩ := readLoop_changing (i := 0) (total := 0)
    (s := s.fillCb (List.replicate (ceil8 w.toNat) 0)) hs hbound (by rw [fillCb_length]; omega) hfit hlen hans
  rw [Nat.zero_add] at hloop
  have hexec : exec (.rdchunk w) s = .next (t.respond .ok w.toNat 0 0 0) := by
    rw [exec_rdchunk_run h1 hw hs, runRdchunk, hloop, endChunk, readStatus, if_pos rfl]
  have hcount : (BitVec.ofNat 16 w.toNat).toNat = w.toNat := by simp
  refine ⟨_, hexec, ⟨rfl, hcount, rfl, rfl, rfl⟩, fun j hj => ?_, hpos, ?_, htans, (rdchunk_frame hexec).1⟩
  · have hbit := hbits j hj
    rwa [Nat.zero_add] at hbit
  · rw [respond_rs, hrs, if_neg (by omega)]

/-- Settles O60: what each port answers follows from what is bound to it, and a chunk's loop reads each byte from RS as it is
then. -/
theorem portsReachTheStoresAsTheyAre : Obligations.PortsReachTheStoresAsTheyAre :=
  fun _ =>
    ⟨fun _ _ _ _ => step_of_bind,
      fun h => ⟨storeRead_unbound h, fun _ => rdbits_unbound h⟩,
      storeAppend_unbound,
      fun hb ha hfull => storeAppend_full hb (by simp [Stores.hasRoom, ha]; omega),
      fun _ _ _ h1 hw _ hcb hs hbound hfit hf =>
        rdchunk_changing h1 hw hcb hs hbound hfit fun i hi => (hf i hi).2⟩

end Sys2Proof.Machine
end

section
/-! PROOFS. The command word: every command decodes back from its word, and every word that decodes is its command's
word (R91 to R96, R99); a word matches at most one row of the opcode map, and decodes exactly if it matches one (R94,
R95); what an illegal word does (R97); the FLUSH forms of WRBITS (R100). -/

namespace Sys2Proof.Machine

/-! ### A word is its fields -/

/-- The fields `op`, `count`, `data` and the low half lie side by side and fill the word (R91). -/
theorem word_eq_iff {c c' : Word} : c = c' ↔ opField c = opField c' ∧ countField c = countField c' ∧
    dataField c = dataField c' ∧ lowField c = lowField c' := by
  simp only [opField, countField, dataField, lowField, BitVec.toNat_eq, BitVec.extractLsb'_toNat,
    Nat.shiftRight_eq_div_pow]
  omega

theorem opField_eq {c : Word} {op : Nat} (h : (opField c).toNat = op) : opField c = BitVec.ofNat 4 op := by
  rw [← h, BitVec.ofNat_toNat, BitVec.setWidth_eq]

theorem tidxField_eq (c : Word) : tidxField c = dataField c ++ lowField c :=
  (BitVec.extractLsb'_append_extractLsb'_eq_extractLsb' (x := c) (start₁ := 0) (len₁ := 16) (len₂ := 8) rfl).symm

@[simp] theorem tidxField_extractLsb'_data (c : Word) : (tidxField c).extractLsb' 16 8 = dataField c := by
  rw [tidxField, dataField, BitVec.extractLsb'_extractLsb'_of_le (by decide)]

@[simp] theorem tidxField_extractLsb'_low (c : Word) : (tidxField c).extractLsb' 0 16 = lowField c := by
  rw [tidxField, lowField, BitVec.extractLsb'_extractLsb'_of_le (by decide)]

theorem selField_eq (c : Word) : selField c = (lowField c).extractLsb' 0 4 := by
  rw [selField, lowField, BitVec.extractLsb'_extractLsb'_of_le (by decide)]

/-- With the reserved bits above the selector clear, the low half is the selector (format S, R92). -/
theorem selField_extractLsb'_low {c : Word} (h : (lowField c).extractLsb' 4 12 = 0#12) :
    (selField c).extractLsb' 0 16 = lowField c := by
  rw [selField_eq]
  simp only [BitVec.toNat_eq, BitVec.extractLsb'_toNat, BitVec.toNat_ofNat, Nat.shiftRight_eq_div_pow] at h ⊢
  omega

/-! ### The reserved bits of each format -/

/-- Format N (R92). -/
@[simp] theorem formatN_clear_iff (c : Word) :
    c.extractLsb' 0 28 = 0#28 ↔ countField c = 0#4 ∧ dataField c = 0#8 ∧ lowField c = 0#16 := by
  simp only [countField, dataField, lowField, BitVec.toNat_eq, BitVec.extractLsb'_toNat, BitVec.toNat_ofNat,
    Nat.shiftRight_eq_div_pow]
  omega

/-- Format B with `data` reserved, as RDBITS has it (R92). -/
@[simp] theorem formatB_clear_iff (c : Word) : c.extractLsb' 0 24 = 0#24 ↔ dataField c = 0#8 ∧ lowField c = 0#16 := by
  simp only [dataField, lowField, BitVec.toNat_eq, BitVec.extractLsb'_toNat, BitVec.toNat_ofNat,
    Nat.shiftRight_eq_div_pow]
  omega

/-- Format W, and format X with `data` reserved, as LDCB has it (R92). -/
@[simp] theorem formatW_clear_iff (c : Word) : c.extractLsb' 16 12 = 0#12 ↔ countField c = 0#4 ∧ dataField c = 0#8 := by
  simp only [countField, dataField, BitVec.toNat_eq, BitVec.extractLsb'_toNat, BitVec.toNat_ofNat,
    Nat.shiftRight_eq_div_pow]
  omega

/-- Format S (R92). -/
@[simp] theorem formatS_clear_iff (c : Word) :
    c.extractLsb' 4 24 = 0#24 ↔ countField c = 0#4 ∧ dataField c = 0#8 ∧ (lowField c).extractLsb' 4 12 = 0#12 := by
  simp only [countField, dataField, lowField, BitVec.toNat_eq, BitVec.extractLsb'_toNat, BitVec.toNat_ofNat,
    Nat.shiftRight_eq_div_pow]
  omega

theorem unlessReserved_eq_ok {clear : Bool} {i j : Instr} (h : unlessReserved clear i = .ok j) :
    clear = true ∧ i = j := by
  cases clear with
  | false => cases h
  | true => exact ⟨rfl, by cases h; rfl⟩

/-! ### The fields of a command's word -/

/-- The bits of a word, by the operand they come from (R99). -/
theorem getLsbD_lineWord (op n : BitVec 4) (d : Byte) (l : BitVec 24) {k : Nat} (hk : k < 32) :
    (lineWord op n d l).getLsbD k = (decide (28 ≤ k) && op.getLsbD (k - 28) || decide (24 ≤ k) && n.getLsbD (k - 24) ||
      decide (16 ≤ k) && d.getLsbD (k - 16) || l.getLsbD k) := by
  simp only [lineWord, BitVec.getLsbD_or, BitVec.getLsbD_shiftLeft, BitVec.getLsbD_setWidth]
  grind

@[simp] theorem opField_lineWord (op n : BitVec 4) (d : Byte) (l : BitVec 24) : opField (lineWord op n d l) = op := by
  ext k hk
  rw [opField, BitVec.getElem_extractLsb', getLsbD_lineWord _ _ _ _ (by omega)]
  grind

@[simp] theorem countField_lineWord (op n : BitVec 4) (d : Byte) (l : BitVec 24) :
    countField (lineWord op n d l) = n := by
  ext k hk
  rw [countField, BitVec.getElem_extractLsb', getLsbD_lineWord _ _ _ _ (by omega)]
  grind

@[simp] theorem dataField_lineWord (op n : BitVec 4) (d : Byte) (l : BitVec 24) :
    dataField (lineWord op n d l) = d ||| l.extractLsb' 16 8 := by
  ext k hk
  rw [dataField, BitVec.getElem_extractLsb', getLsbD_lineWord _ _ _ _ (by omega)]
  grind

@[simp] theorem lowField_lineWord (op n : BitVec 4) (d : Byte) (l : BitVec 24) :
    lowField (lineWord op n d l) = l.extractLsb' 0 16 := by
  ext k hk
  rw [lowField, BitVec.getElem_extractLsb', getLsbD_lineWord _ _ _ _ (by omega)]
  grind

@[simp] theorem extractLsb'_of_le_start {n start len : Nat} (x : BitVec n) (h : n ≤ start) :
    x.extractLsb' start len = 0#len := by
  ext k hk
  simp [BitVec.getLsbD_of_ge x (start + k) (by omega)]

/-! ### Decoding and encoding -/

theorem decode_encode {i : Instr} (hi : i.wellFormed = true) : decode (encode i) = .ok i := by
  cases i with
  | wrbits count data =>
    have hcount : count ≠ 0#4 := by simpa [Instr.wellFormed] using hi
    simp [decode, encode, unlessReserved, hcount]
  | tblrd tidx =>
    have hfield : tidx.extractLsb' 16 8 ++ tidx.extractLsb' 0 16 = tidx := BitVec.extractLsb'_append_extractLsb'
    simp [decode, encode, unlessReserved, tidxField_eq, hfield]
  | rdsr sel => simp [decode, encode, unlessReserved, selField_eq, BitVec.extractLsb'_setWidth_of_le]
  | nop | rdbits | flush | rdchunk | wrchunk | addinc | ldcb | stcb | chreset | tblreset =>
    simp [decode, encode, unlessReserved, BitVec.extractLsb'_setWidth_of_le]

/-- Settles O1: the fields of a command's word are its opcode, its operands and zeros. -/
theorem decodeOfEncodeIsTheCommand : Obligations.DecodeOfEncodeIsTheCommand := fun _ => decode_encode

theorem encode_of_decode {c : Word} {i : Instr} (h : decode c = .ok i) : encode i = c ∧ i.wellFormed = true := by
  unfold decode at h
  split at h
  all_goals rename_i hop
  -- the reserved opcodes
  case h_13 => cases h
  all_goals
    obtain ⟨hclear, rfl⟩ := unlessReserved_eq_ok h
    simp only [beq_iff_eq, formatN_clear_iff, formatB_clear_iff, formatW_clear_iff, formatS_clear_iff] at hclear
    rw [word_eq_iff, opField_eq hop]
  -- WRBITS and FLUSH share an opcode (R100)
  case h_3 => by_cases hcount : countField c = 0#4 <;> simp [encode, hclear, hcount, Instr.wellFormed]
  -- RDSR's selector is a part of the low half
  case h_10 =>
    simp [encode, hclear, selField_extractLsb'_low, Instr.wellFormed, BitVec.extractLsb'_setWidth_of_le]
  all_goals simp [encode, hclear, Instr.wellFormed, BitVec.extractLsb'_setWidth_of_le]

/-- Settles O2: a decoded word's operands are its fields and its reserved bits are 0, so the encoder gives it back. -/
theorem encodeOfDecodeIsTheWord : Obligations.EncodeOfDecodeIsTheWord := fun _ _ => encode_of_decode

/-! ### The opcode map -/

/-- Mask and match compare field by field (R94). -/
theorem matches_iff (r : OpRow) (c : Word) : r.matches c = true ↔
    opField c &&& opField r.mask = opField r.mat ∧ countField c &&& countField r.mask = countField r.mat ∧
    dataField c &&& dataField r.mask = dataField r.mat ∧ lowField c &&& lowField r.mask = lowField r.mat := by
  rw [OpRow.matches, beq_iff_eq, word_eq_iff]
  simp only [opField, countField, dataField, lowField, BitVec.extractLsb'_and]

@[simp] theorem and_0xF (x : BitVec 4) : x &&& 0xF#4 = x := BitVec.and_allOnes
@[simp] theorem and_0xFF (x : BitVec 8) : x &&& 0xFF#8 = x := BitVec.and_allOnes
@[simp] theorem and_0xFFF (x : BitVec 12) : x &&& 0xFFF#12 = x := BitVec.and_allOnes
@[simp] theorem and_0xFFFF (x : BitVec 16) : x &&& 0xFFFF#16 = x := BitVec.and_allOnes

/-- RDSR's mask leaves the selector out of the low half. -/
@[simp] theorem and_0xFFF0_eq_zero_iff (x : BitVec 16) : x &&& 0xFFF0#16 = 0#16 ↔ x.extractLsb' 4 12 = 0#12 := by
  have hsplit : ∀ y : BitVec 16, y = 0#16 ↔ y.extractLsb' 4 12 = 0#12 ∧ y.extractLsb' 0 4 = 0#4 := by
    intro y
    simp only [BitVec.toNat_eq, BitVec.extractLsb'_toNat, BitVec.toNat_ofNat, Nat.shiftRight_eq_div_pow]
    omega
  simp [hsplit, BitVec.extractLsb'_and]

theorem opField_of_matches {r : OpRow} {c : Word} (hr : r ∈ opcodeMap) (h : r.matches c = true) :
    opField c = opField r.mat := by
  have hmask : ∀ r ∈ opcodeMap, opField r.mask = 0xF#4 := by decide
  rw [matches_iff, hmask r hr, and_0xF] at h
  exact h.1

theorem row_eq_of_matches {r r' : OpRow} {c : Word} (hr : r ∈ opcodeMap) (hr' : r' ∈ opcodeMap) (h : r.matches c = true)
    (h' : r'.matches c = true) : r' = r := by
  have hdistinct : ∀ r ∈ opcodeMap, ∀ r' ∈ opcodeMap, opField r'.mat = opField r.mat → r' = r := by decide
  exact hdistinct r hr r' hr' ((opField_of_matches hr' h').symm.trans (opField_of_matches hr h))

theorem no_row_of_reserved_opcode {c : Word} (h : 0xC ≤ (opField c).toNat) : ∀ r ∈ opcodeMap, r.matches c = false := by
  have hlt : ∀ r ∈ opcodeMap, (opField r.mat).toNat < 0xC := by decide
  intro r hr
  by_contra hmatch
  have hop := opField_of_matches hr (by simpa using hmatch)
  exact absurd (hlt r hr) (by rw [← hop]; omega)

/-- The reserved bits of a command's format are those its row's mask has below the opcode (R94, R96). -/
theorem decode_of_matches {r : OpRow} {c : Word} (hr : r ∈ opcodeMap) (h : r.matches c = true) :
    ∃ i, decode c = .ok i := by
  rw [matches_iff] at h
  simp only [opcodeMap, List.mem_cons, List.not_mem_nil, or_false] at hr
  rcases hr with rfl | rfl | rfl | rfl | rfl | rfl | rfl | rfl | rfl | rfl | rfl | rfl
  all_goals
    simp [opField, countField, dataField, lowField] at h
    simp [decode, opField, countField, dataField, lowField, unlessReserved, h]

theorem row_matches_encode (i : Instr) : i.row.matches (encode i) = true :=
  match i with
  | .nop => Laws.RowMatch.nop
  | .rdbits count => Laws.RowMatch.rdbits count
  | .wrbits count data => Laws.RowMatch.wrbits count data
  | .flush data => Laws.RowMatch.flush data
  | .rdchunk w => Laws.RowMatch.rdchunk w
  | .wrchunk w => Laws.RowMatch.wrchunk w
  | .addinc w => Laws.RowMatch.addinc w
  | .tblrd tidx => Laws.RowMatch.tblrd tidx
  | .ldcb bidx => Laws.RowMatch.ldcb bidx
  | .stcb bidx data => Laws.RowMatch.stcb bidx data
  | .rdsr sel => Laws.RowMatch.rdsr sel
  | .chreset => Laws.RowMatch.chreset
  | .tblreset => Laws.RowMatch.tblreset

/-- FLUSH's row is a subset of WRBITS's (R100): its mask has the bits of `count` besides. -/
theorem wrbits_row_of_flush_row {c : Word} (n : BitVec 4) (d d' : Byte) (h : (Instr.flush d').row.matches c = true) :
    (Instr.wrbits n d).row.matches c = true := by
  simp only [Instr.row, flushRow] at h ⊢
  rw [matches_iff] at h ⊢
  simp [opField, countField, dataField, lowField] at h ⊢
  simp [h]

/-- A command's word is in a row of the opcode map: its own, and FLUSH's in WRBITS's (R94, R100). -/
theorem exists_row_of_encode (i : Instr) : ∃ r ∈ opcodeMap, r.matches (encode i) = true ∧ i.row.mat = r.mat := by
  have hmatch := row_matches_encode i
  cases i with
  | flush data =>
    exact ⟨(Instr.wrbits 0 data).row, by simp [opcodeMap, Instr.row], wrbits_row_of_flush_row 0 data data hmatch, rfl⟩
  | nop | rdbits | wrbits | rdchunk | wrchunk | addinc | tblrd | ldcb | stcb | rdsr | chreset | tblreset =>
    exact ⟨_, by simp [opcodeMap, Instr.row], hmatch, rfl⟩

/-- Settles O3: a word that decodes is its command's word, so it lies in that command's row, and rows differ in their
opcodes; a word that does not decode lies in no row, for the words of a row decode. -/
theorem everyWordMatchesOneRowOrNone : Obligations.EveryWordMatchesOneRowOrNone := by
  intro c
  cases hdec : decode c with
  | ok i =>
    obtain ⟨henc, -⟩ := encode_of_decode hdec
    obtain ⟨r, hr, hmatch, hmat⟩ := exists_row_of_encode i
    rw [henc] at hmatch
    exact .inl ⟨i, r, rfl, hr, hmatch, hmat, fun r' hr' h' => row_eq_of_matches hr hr' hmatch h'⟩
  | error why =>
    refine .inr ⟨⟨why, rfl⟩, fun r hr => ?_⟩
    by_contra hmatch
    obtain ⟨i, hi⟩ := decode_of_matches hr (by simpa using hmatch)
    rw [hdec] at hi
    cases hi

/-! ### Illegal words -/

theorem decode_of_no_row {c : Word} (h : ∀ r ∈ opcodeMap, r.matches c = false) : ∃ why, decode c = .error why := by
  obtain ⟨_, r, -, hr, hmatch, -⟩ | ⟨hwhy, -⟩ := everyWordMatchesOneRowOrNone c
  · rw [h r hr] at hmatch
    cases hmatch
  · exact hwhy

theorem step_of_decode_error {s : State} {c : Word} {q : List HostEvent} {why : Illegal} (hturn : s.turn = .host)
    (hq : s.hostq = .cmd c :: q) (hdec : decode c = .error why) : step s = .next (s.taken q).illegal := by
  simp only [step, hq, if_pos hturn, hdec]

theorem exec_rdsr_illegal {sel : BitVec 4} (h : 7 ≤ sel.toNat) (s : State) : exec (.rdsr sel) s = .next s.illegal :=
  if_pos h

theorem encode_rdsr (sel : BitVec 4) : encode (.rdsr sel) = 0x90000000 ||| sel.setWidth 32 := by
  simp [encode, lineWord]

/-- Settles O5: all three kinds of R97 end in `State.illegal`, two of them in the step itself, RDSR's in its meaning. -/
theorem illegalCommandOnlyAnswers : Obligations.IllegalCommandOnlyAnswers := by
  intro s c q hturn hq hkind
  suffices h : step s = .next (s.taken q).illegal from h
  have refused (hnone : ∀ r ∈ opcodeMap, r.matches c = false) : step s = .next (s.taken q).illegal :=
    let ⟨_, hdec⟩ := decode_of_no_row hnone
    step_of_decode_error hturn hq hdec
  rcases hkind with hop | hnone | ⟨sel, hsel, rfl⟩
  · exact refused (no_row_of_reserved_opcode hop)
  · exact refused hnone
  · rw [← encode_rdsr] at hq
    rw [step_of_decode hturn hq (decode_encode rfl), exec_rdsr_illegal hsel]

/-! ### Words of the spec -/

/-- Settles O4, by running the decoder on each word. -/
theorem specWordsDecode : Obligations.SpecWordsDecode := by
  unfold Obligations.SpecWordsDecode
  decide

/-! ### FLUSH -/

theorem encode_flush (d : Byte) : encode (.flush d) = 0x20000000 ||| d.setWidth 32 <<< 16 := by
  simp [encode, lineWord]

theorem exec_wrbits_zero (d d' : Byte) (s : State) : exec (.wrbits 0 d) s = exec (.flush d') s := rfl

/-- Settles O22: the words `0x20dd0000` are FLUSH's own, so they decode to it; WRBITS of no bits passes its count check
and then does what FLUSH does. -/
theorem wrbitsOfZeroBitsIsFlush : Obligations.WrbitsOfZeroBitsIsFlush :=
  ⟨fun s d d' => ⟨encode_flush d ▸ decode_encode rfl, exec_wrbits_zero d d' s⟩, by decide,
    fun _ n d => wrbits_row_of_flush_row n d d⟩

end Sys2Proof.Machine
end

section
/-! PROOFS. The commands of the BitChannel: what they answer at their checks, what they move, and what a failure leaves
(R110 to R119, R193, R197, R199, R203, R205). -/

namespace Sys2Proof.Machine

/-! ### At the checks -/

theorem exec_channel_answer {i : Instr} {s : State} {st : Status} (hi : i.isChannel = true)
    (h : channelAnswer s i = some st) : exec i s = .next (s.reject st) := by
  rw [exec_channel hi, h]; rfl

/-- Settles O31: a legal width passes the first check and the flag stops the second (R203). -/
theorem poisonedChannelRefusesChunks : Obligations.PoisonedChannelRefusesChunks := by
  intro s w i hi h1 hw hs
  have hchunk : i.isChannel = true ∧ channelAnswer s i = some .channelPoisoned := by
    rcases hi with rfl | rfl <;> simp [Instr.isChannel, channelAnswer, widthOk, h1, hw, hs]
  exact exec_channel_answer hchunk.1 hchunk.2

/-! ### What a read delivers -/

/-- A read that ends without IO_FAILURE delivers what RS at that read has from the cursor on, and moves the cursor past
it (R72, R114). -/
theorem readBits_stream {s t : State} {count n : Nat} {b : Byte} {st : Status} (hc : count ≤ 8)
    (h : readBits count s = (.got n b st, t)) (hst : st ≠ .ioFailure) :
    n = min count (8 * s.rdNext.rs.len - s.rpos.toNat) ∧
    (∀ j, j < 8 → b.getLsbD (7 - j) = (decide (j < n) && Memory.bit s.rdNext.rs (s.rpos.toNat + j))) ∧
    t = s.rdNext.advance n ∧ t.rpos.toNat = s.rpos.toNat + n := by
  obtain ⟨hfit, herr, hsilent⟩ :
      s.cursorOverflows count = false ∧ s.nextRead ≠ .err ∧ s.nextRead ≠ .silent := by
    rcases readBits_cases count s with ⟨_, e⟩ | ⟨_, _, e⟩ | ⟨_, _, e⟩ | ⟨hfit, ⟨herr, hsilent⟩, _⟩
    · rw [e] at h; cases h; exact absurd rfl hst
    · rw [e] at h; cases h; exact absurd rfl hst
    · rw [e] at h; cases h
    · exact ⟨hfit, herr, hsilent⟩
  have hfit : s.rpos.toNat + count ≤ 2 ^ 64 - 1 := by simpa [State.cursorOverflows] using hfit
  obtain ⟨m, c, hm, hread, hbits⟩ := readBits_delivers hc hfit herr hsilent
  rw [hread] at h
  cases h
  refine ⟨hm, hbits, rfl, ?_⟩
  simp only [advance_rpos, rdNext_rpos, BitVec.toNat_add, BitVec.toNat_ofNat]
  omega

/-- Settles O15: past the bits delivered, and past the store's end, the byte is zero. -/
theorem readBitsDeliversTheStream : Obligations.ReadBitsDeliversTheStream := by
  intro s t count n b st _ hc _ h hst
  obtain ⟨hn, hbits, _, hpos⟩ := readBits_stream hc h hst
  refine ⟨hn, fun j hj => ?_, fun j hnj hj => ?_, hpos⟩
  · rw [hbits j (by omega), decide_eq_true hj, Bool.true_and]
  · rw [hbits j hj, decide_eq_false (by omega), Bool.false_and]

/-! ### RDBITS -/

theorem readStatus_code (want got : Nat) :
    (readStatus want got).code = if got = want then 0 else if got = 0 then 2 else 1 := by
  unfold readStatus; split_ifs <;> rfl

/-- Settles O16: the run is one `readBits` on RS as it stands, and the command responds with what it delivered. -/
theorem rdbitsDeliversBits : Obligations.RdbitsDeliversBits := by
  intro s count h1 h8 hs hfit hans _
  obtain ⟨n, b, hn, hread, hbits⟩ := readBits_delivers h8 hfit (by simp [hans]) (by simp [hans])
  obtain ⟨_, _, _, hpos⟩ := readBits_stream h8 hread (readStatus_ne_ioFailure _ _)
  rw [rdNext_rs (by simp [hans])] at hn hbits
  have hexec : exec (.rdbits count) s = .next ((s.rdNext.advance n).respond (readStatus count.toNat n) n b 0 0) := by
    rw [exec_rdbits_run h1 h8 hs, hread]; rfl
  obtain ⟨hframe, hcb⟩ := rdbits_frame hexec
  have hcount : (BitVec.ofNat 16 n).toNat = n := Nat.mod_eq_of_lt (by omega)
  exact ⟨_, n, hexec, hn, hcount, readStatus_code .., hbits, rfl, rfl, hpos, hs, hframe,
    rdNext_stores (by simp [hans]), hcb, rfl⟩

/-- A read fails where the cursor would pass its limit, then without an access of the store, or where the store answers
`err`, which takes that one answer; nothing but the poison comes of it (R112, R115). -/
theorem readBits_fails {count : Nat} {s : State}
    (h : 2 ^ 64 - 1 < s.rpos.toNat + count ∨ s.nextRead = .err) :
    ∃ k, k ≤ 1 ∧ readBits count s = (.got 0 0 .ioFailure, State.poison { s with rdAns := s.rdAns.drop k }) ∧
      (2 ^ 64 - 1 < s.rpos.toNat + count → k = 0) := by
  rcases readBits_cases count s with ⟨_, e⟩ | ⟨hfit, _, e⟩ | ⟨hfit, hans, _⟩ | ⟨hfit, ⟨hans, _⟩, _⟩
  · exact ⟨0, Nat.zero_le 1, e, fun _ => rfl⟩
  all_goals
    have hfit : ¬ 2 ^ 64 - 1 < s.rpos.toNat + count := of_decide_eq_false hfit
    have herr := h.resolve_left hfit
  · have hstate : s.rdNext = { s with rdAns := s.rdAns.drop 1 } := by
      simp only [State.rdNext, Stores.seenAt, herr, List.drop_one]
    exact ⟨1, Nat.le_refl 1, hstate ▸ e, fun hover => absurd hover hfit⟩
  · rw [herr] at hans; cases hans
  · exact absurd herr hans

/-- Settles O17: the checks in their order, and a run whose one `readBits` fails. -/
theorem rdbitsChecksAndFails : Obligations.RdbitsChecksAndFails := by
  intro s count
  refine ⟨fun h9 => ?_, fun h8 hs => ?_, fun h0 hs => ?_, fun h1 h8 hs hfail => ?_⟩
  · exact exec_channel_answer (st := .invalidCount) rfl (by simp [channelAnswer, countOk, h9])
  · exact exec_channel_answer (st := .channelPoisoned) rfl (by simp [channelAnswer, countOk, h8, hs])
  · exact exec_channel_answer (st := .ok) rfl (by simp [channelAnswer, countOk, h0, hs])
  · obtain ⟨k, _, hread, hover⟩ := readBits_fails hfail
    have hexec : exec (.rdbits count) s =
        .next ((State.poison { s with rdAns := s.rdAns.drop k }).respond .ioFailure 0 0 0 0) := by
      rw [exec_rdbits_run h1 h8 hs, hread]; rfl
    exact ⟨_, hexec, ⟨rfl, rfl, rfl, rfl, rfl⟩, rfl, (rdbits_frame hexec).1, rfl, rfl,
      fun h => by rw [hover h]; rfl⟩

/-! ### WRBITS and FLUSH -/

/-- Settles O19: the checks in their order, and a run whose one `writeBits` fails on its append. -/
theorem wrbitsChecksAndFails : Obligations.WrbitsChecksAndFails := by
  intro s count data
  refine ⟨fun h9 => ?_, fun h8 hs => ?_, fun h1 h8 hs hfull landed hans => ?_⟩
  · exact exec_channel_answer (st := .invalidCount) rfl (by simp [channelAnswer, countOk, h9])
  · exact exec_channel_answer (st := .channelPoisoned) rfl (by simp [channelAnswer, countOk, h8, hs])
  · obtain ⟨b, hwrite⟩ : ∃ b, writeBits count.toNat data s =
        (.sent 0 .ioFailure, (s.wrNext.land landed b).poison) := by
      simp only [writeBits, if_pos hfull, storeAppend_err _ hans]
      exact ⟨_, rfl⟩
    have hexec : exec (.wrbits count data) s =
        .next ((s.wrNext.land landed b).poison.respond .ioFailure 0 0 0 0) := by
      rw [exec_wrbits_run data h1 h8 hs, hwrite]; rfl
    obtain ⟨hframe, _⟩ := writeBits_frame count.toNat data s hs
    have hone : (s.pcnt.toNat + count.toNat) / 8 = 1 := by have := s.pcnt.isLt; omega
    rw [hone, hwrite] at hframe
    refine ⟨_, hexec, ⟨rfl, rfl, rfl, rfl, rfl⟩, rfl, hframe.respond .., land_ws_len .., fun ha => ?_⟩
    obtain ⟨t, ht, _, _, hbits⟩ := writeBits_err data hs ha h8 hfull hans
    obtain rfl := (Prod.mk.inj (hwrite.symm.trans ht)).2
    exact hbits

theorem exec_flush_eq_flushPending {s : State} (data : Byte) (hs : s.chPoison = false) :
    exec (.flush data) s = .next (flushPending s) := by
  simp [exec, execFlush, hs]

/-- Settles O20: on a channel that is not poisoned FLUSH is nothing, or one append of the pending byte. -/
theorem flushWritesThePendingByte : Obligations.FlushWritesThePendingByte := by
  intro s data
  refine ⟨fun hs => ?_, fun hs hp => ?_,
    fun hs hp hans => ⟨s.stores.append s.pbits, ?_, ?_, fun ha => ?_, fun a ha => ?_⟩,
    fun hs hp landed hans => ?_⟩
  · exact exec_channel_answer (st := .channelPoisoned) rfl (by simp [channelAnswer, hs])
  · exact exec_channel_answer (st := .ok) rfl (by simp [channelAnswer, hs, hp])
  · rw [exec_flush_eq_flushPending data hs, flushPending, if_neg hp, storeAppend_ok _ hans]; rfl
  · simp
  · simp [stores_append_rs, ha]
  · rw [stores_append_ws, append_read?_ne _ _ ha]
  · have hexec : exec (.flush data) s = .next ((s.wrNext.land landed s.pbits).poison.failIo 0) := by
      rw [exec_flush_eq_flushPending data hs, flushPending, if_neg hp, storeAppend_err _ hans]
    exact ⟨_, hexec, ⟨rfl, rfl, rfl, rfl, rfl⟩, rfl, flush_frame hexec, land_ws_bytes ..⟩

end Sys2Proof.Machine
end

section
/-! PROOFS. RDCHUNK: the bits it counts are in the buffer, and what the request that fails leaves (R72, R132 to R134,
R193, R205). -/

namespace Sys2Proof.Machine

/-! ### The bits that RDCHUNK counts, in the buffer -/

theorem cbByte_setCb_same {s : State} {i : Nat} (b : Byte) (hi : i < s.cb.length) : (s.setCb i b).cbByte i = b := by
  simp [State.cbByte, hi]

theorem cbByte_setCb_ne (s : State) {i k : Nat} (b : Byte) (hk : k ≠ i) : (s.setCb i b).cbByte k = s.cbByte k := by
  simp [State.cbByte, List.getD_eq_getElem?_getD, List.getElem?_set_ne hk.symm]

/-- While no other party changes RS the next read finds it as it is (R72). -/
theorem rdNext_rs_of_rsStill {s : State} {n : Nat} (h : s.rsStill (n + 1)) : s.rdNext.rs = s.rs := by
  refine rdNext_rs fun m hm => ?_
  have hmem : .okAfter m ∈ s.rdAns.take (n + 1) := by
    rw [State.nextRead, if_pos (rsBound_of_nextRead_okAfter hm)] at hm
    cases ha : s.rdAns with
    | nil => rw [ha] at hm; cases hm
    | cons a l => rw [ha] at hm; rw [show a = .okAfter m from hm]; exact List.mem_cons_self ..
  exact nomatch h _ hmem

theorem rsStill_rdNext {s : State} {n : Nat} (h : s.rsStill (n + 1)) : s.rdNext.rsStill n := by
  intro a ha
  refine h a ?_
  rw [rdNext_rdAns] at ha
  cases hl : s.rdAns with
  | nil => rw [hl] at ha; simp at ha
  | cons b l => rw [hl] at ha; exact List.mem_cons_of_mem _ ha

/-- A read that is one of those for `n` bits delivers the bits of RS as it stands, where no other party changes RS
before these are read (R72, R114). -/
theorem readBits_still {s t : State} {count m n : Nat} {b : Byte} {st : Status} (hc : count ≤ 8)
    (h : readBits count s = (.got m b st, t)) (hst : st ≠ .ioFailure) (hmn : m ≤ n) (hstill : s.rsStill (ceil8 n))
    {j : Nat} (hj : j < 8) :
    b.getLsbD (7 - j) = (decide (j < m) && Memory.bit s.rs (s.rpos.toNat + j)) := by
  obtain ⟨_, hbits, _⟩ := readBits_stream hc h hst
  rw [hbits j hj]
  rcases Nat.eq_zero_or_pos m with rfl | hm
  · simp
  · rw [ceil8_of_pos (by omega : 0 < n)] at hstill
    rw [rdNext_rs_of_rsStill hstill]

/-- What one request of RDCHUNK's loop does, unless its read is not answered: it fails, or its byte is in the buffer and
the loop ends after a short delivery or goes on (R132). -/
theorem readLoop_cons_cases {req i total : Nat} {reqs : List Nat} {s t : State} {r : ChunkEnd} (hs : s.chPoison = false)
    (hreq : req ≤ 8) (h : readLoop (req :: reqs) i total s = (r, t)) (hr : r ≠ .silent) :
    (r = .failed total ∧ t.cb = s.cb) ∨
    ∃ m b st, readBits req s = (.got m b st, s.rdNext.advance m) ∧ st ≠ .ioFailure ∧
      (s.rdNext.advance m).rpos.toNat = s.rpos.toNat + m ∧
      ((m < req ∧ r = .ran (total + m) ∧ t = (s.rdNext.advance m).setCb i b) ∨
        (m = req ∧ readLoop reqs (i + 1) (total + m) ((s.rdNext.advance m).setCb i b) = (r, t))) := by
  obtain ⟨_, hcb, _⟩ := readBits_frame req s hs
  rw [readLoop] at h
  rcases hread : readBits req s with ⟨⟨m, b, st⟩ | _, u⟩ <;> simp only [hread] at h hcb
  case silent => exact absurd (Prod.mk.inj h).1.symm hr
  split at h
  · obtain ⟨rfl, rfl⟩ := Prod.mk.inj h
    exact .inl ⟨rfl, hcb⟩
  · next hst =>
    obtain ⟨hm, _, rfl, hpos⟩ := readBits_stream hreq hread hst
    refine .inr ⟨m, b, st, rfl, hst, hpos, ?_⟩
    split at h
    · next hshort =>
      obtain ⟨rfl, rfl⟩ := Prod.mk.inj h
      exact .inl ⟨hshort, rfl, rfl⟩
    · next hfull => exact .inr ⟨by omega, h⟩

/-- RDCHUNK's loop over all requests of `w` bits on a cleared buffer, however it ends: the bits it counts are in the
buffer, followed by zeros, if no other party changes RS before the last of them is read (R72, R132, R133, R134). -/
theorem readLoop_delivers {w i total N : Nat} {s t : State} {r : ChunkEnd} (hs : s.chPoison = false)
    (hcb : i + ceil8 w ≤ s.cb.length) (hzero : ∀ k, k < ceil8 w → s.cbByte (i + k) = 0)
    (h : readLoop (chunkReqs w) i total s = (r, t)) (hr : r = .ran N ∨ r = .failed N) :
    ∃ n, n ≤ w ∧ N = total + n ∧ (s.rsStill (ceil8 n) → ∀ k, k < ceil8 w → ∀ x, x < 8 →
      (t.cbByte (i + k)).getLsbD (7 - x) =
        (decide (8 * k + x < n) && Memory.bit s.rs (s.rpos.toNat + (8 * k + x)))) := by
  induction w using Nat.strong_induction_on generalizing i total s with
  | _ w ih =>
    rcases Nat.eq_zero_or_pos w with rfl | hw
    · obtain ⟨rfl, rfl⟩ := Prod.mk.inj h
      exact ⟨0, Nat.le_refl 0, by simpa [eq_comm] using hr, fun _ k hk => absurd hk (Nat.not_lt_zero k)⟩
    have hceil := ceil8_of_pos hw
    have hreq : min w 8 ≤ 8 := Nat.min_le_right w 8
    rw [chunkReqs_of_pos hw] at h
    rcases readLoop_cons_cases hs hreq h (by rcases hr with rfl | rfl <;> simp) with
      ⟨rfl, hucb⟩ | ⟨m, b, st, hread, hst, hpos, hnext⟩
    · refine ⟨0, Nat.zero_le w, by simpa [eq_comm] using hr, fun _ k hk x _ => ?_⟩
      have hkept : t.cbByte (i + k) = s.cbByte (i + k) := by simp only [State.cbByte, hucb]
      rw [hkept, hzero k hk]
      simp
    have hfirst : ((s.rdNext.advance m).setCb i b).cbByte i = b := cbByte_setCb_same b (by simp; omega)
    have hlater : ∀ k, k + 1 < ceil8 w → ((s.rdNext.advance m).setCb i b).cbByte (i + (k + 1)) = 0 := fun k hk =>
      (cbByte_setCb_ne _ b (by omega)).trans (hzero (k + 1) hk)
    rcases hnext with ⟨hshort, rfl, rfl⟩ | ⟨rfl, hloop⟩
    · refine ⟨m, by omega, by simpa [eq_comm] using hr, fun hstill k hk x hx => ?_⟩
      cases k with
      | zero =>
        rw [Nat.add_zero, hfirst, Nat.mul_zero, Nat.zero_add]
        exact readBits_still hreq hread hst (Nat.le_refl m) hstill hx
      | succ k =>
        rw [hlater k hk, decide_eq_false (by omega)]
        simp
    · obtain ⟨n, hn, hN, hbits⟩ := ih (w - 8) (by omega) (i := i + 1)
        (s := (s.rdNext.advance (min w 8)).setCb i b) hs (by simp; omega)
        (fun k hk => by rw [Nat.add_assoc, Nat.add_comm 1]; exact hlater k (by omega)) hloop
      refine ⟨min w 8 + n, by omega, by omega, fun hstill k hk x hx => ?_⟩
      cases k with
      | zero =>
        have hkept := readLoop_cbByte_of_lt (reqs := chunkReqs (w - 8)) (i := i + 1) (total := total + min w 8)
          (s := (s.rdNext.advance (min w 8)).setCb i b) hs (Nat.lt_succ_self i)
        rw [hloop, hfirst] at hkept
        have hlt : decide (x < min w 8) = decide (x < min w 8 + n) := decide_eq_decide.2 (by omega)
        rw [Nat.add_zero, hkept, Nat.mul_zero, Nat.zero_add, ← hlt]
        exact readBits_still hreq hread hst (Nat.le_add_right ..) hstill hx
      | succ k =>
        have h8w := lt_ceil8_iff.1 hk
        rw [show ceil8 (min w 8 + n) = ceil8 n + 1 by unfold ceil8; omega] at hstill
        have hbit := hbits (rsStill_rdNext hstill) k (by omega) x hx
        have hlt : decide (8 * k + x < n) = decide (8 * (k + 1) + x < min w 8 + n) := decide_eq_decide.2 (by omega)
        have hstream : s.rpos.toNat + min w 8 + (8 * k + x) = s.rpos.toNat + (8 * (k + 1) + x) := by omega
        rwa [Nat.add_assoc, Nat.add_comm 1, setCb_rs, advance_rs, rdNext_rs_of_rsStill hstill, setCb_rpos, hpos, hlt,
          hstream] at hbit

theorem fillCb_zeros_cbByte (s : State) {n k : Nat} (hk : k < n) : (s.fillCb (List.replicate n 0)).cbByte k = 0 := by
  rw [State.cbByte, fillCb_cb, List.getD_eq_getElem?_getD, List.getElem?_take]
  split
  · rw [List.getElem?_append_left (by simpa using hk), List.getElem?_replicate_of_lt hk, Option.getD_some]
  · rfl

/-- RDCHUNK's run, however it ends: the bits it counts are in the buffer, followed by zeros up to the chunk's last byte,
if no other party changes RS before the last of them is read (R72, R132, R133, R134). -/
theorem runRdchunk_delivers {w : BitVec 16} {N : Nat} {s t : State} {r : ChunkEnd} (hs : s.chPoison = false)
    (hbuf : ceil8 w.toNat ≤ s.cb.length) (h : runRdchunk w s = (r, t)) (hr : r = .ran N ∨ r = .failed N)
    (hstill : s.rsStill (ceil8 N)) {k x : Nat} (hk : k < ceil8 w.toNat) (hx : x < 8) :
    (t.cbByte k).getLsbD (7 - x) = (decide (8 * k + x < N) && Memory.bit s.rs (s.rpos.toNat + (8 * k + x))) := by
  obtain ⟨n, _, hN, hbits⟩ := readLoop_delivers (w := w.toNat) (i := 0)
    (s := s.fillCb (List.replicate (ceil8 w.toNat) 0)) hs (by rw [fillCb_length]; omega)
    (fun k hk => by rw [Nat.zero_add]; exact fillCb_zeros_cbByte s hk) h hr
  obtain rfl : N = n := by omega
  have hbit := hbits hstill k hk x hx
  rwa [Nat.zero_add, fillCb_rs, fillCb_rpos] at hbit

/-! ### The request that fails -/

theorem rsStill_of_ok {s : State} {n : Nat} (h : ∀ a ∈ s.rdAns.take n, a = .ok) : s.rsStill n :=
  fun a ha => by rw [h a ha]; rfl

theorem rsStill_of_ok_then {s : State} {n : Nat} {a : ReadAnswer} (h : ∀ a ∈ s.rdAns.take n, a = .ok)
    (ha : s.rdAns[n]? = some a) (hstill : a.changesRs = false) : s.rsStill (n + 1) := by
  intro b hb
  rw [List.take_add_one, ha] at hb
  rcases List.mem_append.1 hb with hb | hb
  · exact rsStill_of_ok h b hb
  · rw [List.mem_singleton.1 hb]; exact hstill

/-- RDCHUNK's loop whose request number `i` fails after `i` that deliver in full: what is left is the state before that
request, but for its access of the store if it makes one, and the poison (R132, R134). -/
theorem readLoop_fails {w i : Nat} {s : State} (hi : i < ceil8 w) (hfit : s.rpos.toNat + 8 * i ≤ 2 ^ 64 - 1)
    (hlen : i = 0 ∨ s.rpos.toNat + 8 * i ≤ 8 * s.rs.len) (hans : ∀ a ∈ s.rdAns.take i, a = .ok)
    (hfail : 2 ^ 64 - 1 < s.rpos.toNat + min w (8 * i + 8) ∨ s.rsBound = true ∧ s.rdAns[i]? = some .err) :
    ∃ k cb, k ≤ 1 ∧ readLoop (chunkReqs w) 0 0 s =
        (.failed (8 * i), State.poison { s with rdAns := s.rdAns.drop (i + k), cb := cb }) ∧
      (2 ^ 64 - 1 < s.rpos.toNat + min w (8 * i + 8) → k = 0) := by
  have h8i := lt_ceil8_iff.1 hi
  obtain ⟨rest, hreqs⟩ := chunkReqs_split hi
  obtain ⟨cb, hloop⟩ := readLoop_full i (min (w - 8 * i) 8 :: rest) 0 0 s hfit hlen hans
  have hreach : (s.afterReads i cb).rpos.toNat + min (w - 8 * i) 8 = s.rpos.toNat + min w (8 * i + 8) := by
    rw [afterReads_rpos_toNat cb hfit]; omega
  have hfail : 2 ^ 64 - 1 < (s.afterReads i cb).rpos.toNat + min (w - 8 * i) 8 ∨
      (s.afterReads i cb).nextRead = .err := by
    refine hfail.imp (hreach ▸ ·) fun ⟨hbound, herr⟩ => ?_
    simp [State.afterReads, State.nextRead, hbound, List.headD_eq_head?_getD, List.head?_drop, herr]
  obtain ⟨k, hk, hread, hover⟩ := readBits_fails hfail
  refine ⟨k, cb, hk, ?_, fun h => hover (hreach ▸ h)⟩
  rw [hreqs, hloop, readLoop, hread]
  simp [State.afterReads, State.poison, List.drop_drop]

/-- Settles O27: the bits counted are those of the requests before the one that fails, which writes nothing. -/
theorem rdchunkFailureKeepsDeliveredBytes : Obligations.RdchunkFailureKeepsDeliveredBytes := by
  intro s w i hw hcblen hs _ hi hfit hlen hans hfail
  have h8i := lt_ceil8_iff.1 hi
  have hbuf : ceil8 w.toNat ≤ s.cb.length := by rw [hcblen, pbMax]; exact Nat.div_le_div_right (by omega)
  obtain ⟨k, cb, hk, hloop, hover⟩ := readLoop_fails (s := s.fillCb (List.replicate (ceil8 w.toNat) 0)) hi hfit
    (by rwa [fillCb_rpos, fillCb_rs]) hans (hfail.imp_right And.right)
  have hrun : runRdchunk w s =
      (.failed (8 * i), State.poison { s with rdAns := s.rdAns.drop (i + k), cb := cb }) := hloop
  have hexec : exec (.rdchunk w) s =
      .next ((State.poison { s with rdAns := s.rdAns.drop (i + k), cb := cb }).failIo (8 * i)) := by
    rw [exec_rdchunk_run (by omega) hw hs, hrun]; rfl
  obtain ⟨hframe, _, hcb⟩ := rdchunk_frame hexec
  have hstill : s.rsStill (i + k) := by
    rcases hfail with hfar | ⟨_, _, herr⟩
    · rw [hover hfar]; exact rsStill_of_ok hans
    · exact fun a ha => rsStill_of_ok_then hans herr rfl a (List.take_subset_take_left _ (by omega) ha)
  have hcount : (BitVec.ofNat 16 (8 * i)).toNat = 8 * i := Nat.mod_eq_of_lt (by omega)
  have hread : s.rsStill (ceil8 (8 * i)) := by
    rw [show ceil8 (8 * i) = i by unfold ceil8; omega]; exact rsStill_of_ok hans
  refine ⟨_, hexec, ⟨rfl, hcount, rfl, rfl, rfl⟩, rfl,
    { hframe with answers := ⟨i + k, by omega, rfl, (storesAfter_still hstill).symm⟩ }, rfl, fun j hj => ?_,
    fun j hij hj => ?_, hcb, fun h => by rw [hover h]; rfl⟩
  · have hbit := runRdchunk_delivers hs hbuf hrun (.inr rfl) hread (k := j / 8) (x := j % 8) (by omega) (by omega)
    rwa [Nat.div_add_mod, decide_eq_true hj, Bool.true_and] at hbit
  · refine BitVec.eq_of_getLsbD_eq fun x hx => ?_
    have hbit := runRdchunk_delivers hs hbuf hrun (.inr rfl) hread (x := 7 - x) hj (by omega)
    rw [decide_eq_false (by omega), Bool.false_and, show 7 - (7 - x) = x by omega] at hbit
    exact hbit.trans BitVec.getLsbD_zero.symm

end Sys2Proof.Machine
end

section
/-! PROOFS. The chunk commands on a working channel: RDCHUNK counts and moves past what RS has from the cursor on, which is
what is in the buffer, and WRCHUNK's bits are all accepted (R131 to R137, R194, R230). -/

namespace Sys2Proof.Machine

/-- The requests of a chunk are some for 8 bits and those of the chunk that is left (R131, R135). -/
theorem chunkReqs_mul_eight_add (n w : Nat) : chunkReqs (8 * n + w) = List.replicate n 8 ++ chunkReqs w := by
  induction n with
  | zero => simp
  | succ n ih =>
    rw [chunkReqs_of_pos (by omega), show 8 * (n + 1) + w - 8 = 8 * n + w by omega, ih, List.replicate_succ,
      List.cons_append, show min (8 * (n + 1) + w) 8 = 8 by omega]

theorem chunkReqs_of_lt_eight {w : Nat} (h : 0 < w) (h8 : w < 8) : chunkReqs w = [w] := by
  rw [chunkReqs_of_pos h, Nat.min_eq_left (by omega), Nat.sub_eq_zero_of_le (by omega)]; rfl

/-- A chunk of a legal width fits the buffer (R28). -/
theorem ceil8_le_cb_length {s : State} {w : Nat} (hcb : s.cb.length = pbMax s.par) (hw : w ≤ s.par.wMax) :
    ceil8 w ≤ s.cb.length := by
  rw [hcb, pbMax]; exact Nat.div_le_div_right (by omega)

/-! ### RDCHUNK -/

theorem State.rsStill.mono {s : State} {m n : Nat} (h : s.rsStill n) (hm : m ≤ n) : s.rsStill m :=
  fun a ha => h a (List.take_subset_take_left _ hm ha)

/-- RDCHUNK's loop over all requests of `w` bits, if it ends without a failure, has counted and moved past the bits that RS
has from the cursor on, up to `w`, where no other party changes RS meanwhile (R72, R132, R133). -/
theorem readLoop_ran {w i total N : Nat} {s t : State} (hs : s.chPoison = false) (hstill : s.rsStill (ceil8 w))
    (h : readLoop (chunkReqs w) i total s = (.ran N, t)) :
    N = total + min w (8 * s.rs.len - s.rpos.toNat) ∧
    t.rpos.toNat = s.rpos.toNat + min w (8 * s.rs.len - s.rpos.toNat) := by
  induction w using Nat.strong_induction_on generalizing i total s with
  | _ w ih =>
    rcases Nat.eq_zero_or_pos w with rfl | hw
    · obtain ⟨hN, rfl⟩ := Prod.mk.inj h
      cases hN
      simp
    rw [ceil8_of_pos hw] at hstill
    rw [chunkReqs_of_pos hw] at h
    have hreq : min w 8 ≤ 8 := Nat.min_le_right w 8
    rcases readLoop_cons_cases hs hreq h (by simp) with ⟨hfailed, _⟩ | ⟨m, b, st, hread, hst, hpos, hnext⟩
    · cases hfailed
    obtain ⟨hm, _⟩ := readBits_stream hreq hread hst
    rw [rdNext_rs_of_rsStill hstill] at hm
    rcases hnext with ⟨hshort, hN, rfl⟩ | ⟨hfull, hloop⟩
    · cases hN
      rw [setCb_rpos, hpos]
      omega
    · have hrest := ih (w - 8) (by omega) (s := (s.rdNext.advance m).setCb i b) hs (rsStill_rdNext hstill) hloop
      rw [setCb_rs, advance_rs, rdNext_rs_of_rsStill hstill, setCb_rpos, hpos] at hrest
      omega

theorem runRdchunk_ran {w : BitVec 16} {N : Nat} {s t : State} (hs : s.chPoison = false)
    (hstill : s.rsStill (ceil8 w.toNat)) (h : runRdchunk w s = (.ran N, t)) :
    N = min w.toNat (8 * s.rs.len - s.rpos.toNat) ∧
    t.rpos.toNat = s.rpos.toNat + min w.toNat (8 * s.rs.len - s.rpos.toNat) := by
  simpa using readLoop_ran (s := s.fillCb (List.replicate (ceil8 w.toNat) 0)) hs hstill h

/-- RDCHUNK's loop whose reads are all answered OK ends without a failure, if the request that ends past the bits there
are, or the last, does not overflow the cursor: the requests before it are delivered in full (R112, R132). -/
theorem readLoop_runs {w n : Nat} {s : State} (hn : n = min w (8 * s.rs.len - s.rpos.toNat))
    (hfit : s.rpos.toNat + min w (8 * (n / 8) + 8) ≤ 2 ^ 64 - 1) (hans : ∀ a ∈ s.rdAns.take (ceil8 w), a = .ok) :
    ∃ N t, readLoop (chunkReqs w) 0 0 s = (.ran N, t) := by
  obtain ⟨cb, hloop⟩ := readLoop_full (n / 8) (chunkReqs (w - 8 * (n / 8))) 0 0 s (by omega) (by omega)
    fun a ha => hans a (List.take_subset_take_left _ (by unfold ceil8; omega) ha)
  rw [← chunkReqs_mul_eight_add, show 8 * (n / 8) + (w - 8 * (n / 8)) = w by omega] at hloop
  rw [hloop]
  rcases Nat.eq_zero_or_pos (w - 8 * (n / 8)) with hnone | hleft
  · rw [hnone]; exact ⟨_, _, rfl⟩
  have hpos := afterReads_rpos_toNat (s := s) (n := n / 8) cb (by omega)
  have hnext : (s.afterReads (n / 8) cb).nextRead = .ok := nextRead_ok (n := 0) fun a ha => by
    refine hans a (List.take_subset_take_left _ (by unfold ceil8; omega : n / 8 + 1 ≤ ceil8 w) ?_)
    rw [List.take_add]
    exact List.mem_append_right _ ha
  obtain ⟨m, b, hm, hread, _⟩ := readBits_delivers (s := s.afterReads (n / 8) cb)
    (Nat.min_le_right (w - 8 * (n / 8)) 8) (by rw [hpos]; omega) (by simp [hnext]) (by simp [hnext])
  rw [rdNext_rs (by simp [hnext]), afterReads_rs, hpos] at hm
  rw [chunkReqs_of_pos hleft, readLoop, hread]
  simp only [readStatus_ne_ioFailure, if_false]
  split
  · exact ⟨_, _, rfl⟩
  · rw [show w - 8 * (n / 8) - 8 = 0 by omega]
    exact ⟨_, _, rfl⟩

/-- Settles O25: the loop runs to an end, its count is the bits of RS up to `w`, and its frame holds. -/
theorem rdchunkReadsAChunk : Obligations.RdchunkReadsAChunk := by
  intro s w n h1 hw hs _ hn hfit hans
  have hstill := rsStill_of_ok hans
  obtain ⟨N, t, hrun⟩ : ∃ N t, runRdchunk w s = (.ran N, t) :=
    readLoop_runs (s := s.fillCb (List.replicate (ceil8 w.toNat) 0)) hn hfit hans
  obtain ⟨hN, hpos⟩ := runRdchunk_ran hs hstill hrun
  rw [← hn] at hN hpos
  subst hN
  have hexec : exec (.rdchunk w) s = .next (t.respond (readStatus w.toNat N) N 0 0 0) := by
    rw [exec_rdchunk_run h1 hw hs, hrun]; rfl
  obtain ⟨hframe, _, hcb⟩ := rdchunk_frame hexec
  obtain ⟨_, _, _, hturn, _, hpoison⟩ :=
    readLoop_frame (chunkReqs w.toNat) 0 0 (s.fillCb (List.replicate (ceil8 w.toNat) 0)) hs
  rw [← runRdchunk, hrun] at hturn hpoison
  have hfree : t.chPoison = false := by simpa using hpoison
  have hcount : (BitVec.ofNat 16 N).toNat = N := Nat.mod_eq_of_lt (by omega)
  obtain ⟨k, hk, _, hstores⟩ := hframe.answers
  exact ⟨_, hexec, ⟨readStatus_code .., hcount, rfl, rfl, rfl⟩, hpos, hfree, hframe,
    hstores.trans (storesAfter_still (hstill.mono hk)), hcb, hturn⟩

/-- An RDCHUNK that has ended, and not with IO_FAILURE, is one whose loop ran (R132, R236). -/
theorem runRdchunk_of_exec {w : BitVec 16} {s t : State} (h1 : 1 ≤ w.toNat) (hw : w.toNat ≤ s.par.wMax)
    (hs : s.chPoison = false) (h : exec (.rdchunk w) s = .next t) (hturn : t.turn = .host) (hstat : t.rStat ≠ 3) :
    ∃ N u, runRdchunk w s = (.ran N, u) ∧ t = u.respond (readStatus w.toNat N) N 0 0 0 := by
  rw [exec_rdchunk_run h1 hw hs] at h
  obtain rfl := Host.Outcome.next.inj h
  rcases hrun : runRdchunk w s with ⟨N | N | _, u⟩ <;> rw [hrun] at hturn hstat
  · exact ⟨N, u, rfl, rfl⟩
  · exact absurd rfl hstat
  · cases hturn

/-- Settles O26: the loop ran, so the bits it counted are those of RS up to `w`, and they are in the buffer. -/
theorem rdchunkLeavesTheStreamInTheBuffer : Obligations.RdchunkLeavesTheStreamInTheBuffer := by
  intro s t w h1 hw _ hcb hs _ hstill _ h hturn hstat
  have hbuf := ceil8_le_cb_length hcb hw
  obtain ⟨N, u, hrun, rfl⟩ := runRdchunk_of_exec h1 hw hs h hturn hstat
  obtain ⟨hN, hpos⟩ := runRdchunk_ran hs hstill hrun
  rw [← hN] at hpos
  have hcount : (BitVec.ofNat 16 N).toNat = N := Nat.mod_eq_of_lt (by omega)
  have hbits : ∀ j, j < 8 * ceil8 w.toNat → (u.cbByte (j / 8)).getLsbD (7 - j % 8) =
      (decide (j < N) && Memory.bit s.rs (s.rpos.toNat + j)) := fun j hj => by
    have hbit := runRdchunk_delivers hs hbuf hrun (.inl rfl) (hstill.mono (Nat.div_le_div_right (by omega)))
      (k := j / 8) (x := j % 8) (by omega) (by omega)
    rwa [Nat.div_add_mod] at hbit
  refine ⟨N, hN, hcount, fun j hj => ?_, fun j hNj hj => ?_, hpos⟩
  · exact (hbits j (by unfold ceil8; omega)).trans (by simp [hj])
  · exact (hbits j hj).trans (by simp [Nat.not_lt.2 hNj])

/-! ### WRCHUNK -/

/-- On a port that can take `n` bytes, whose next `n` answers are listed as OK or not listed, the next `n` appends are
taken (R64, R66). -/
theorem appendAnswer_ok {s : State} {n j : Nat} (htake : s.canTake n) (hans : ∀ a ∈ s.wrAns.take n, a = .ok)
    (hj : j < n) : s.appendAnswer j = .ok := by
  obtain ⟨hbound, hroom⟩ := htake (by omega)
  have hfits : s.stores.hasRoom (j + 1) = true := by
    simp only [Stores.hasRoom, Bool.or_eq_true, decide_eq_true_eq] at hroom ⊢
    exact hroom.imp_right fun h => by omega
  rw [State.appendAnswer, if_pos hbound, if_pos hfits, List.getD_eq_getElem?_getD]
  cases ha : s.wrAns[j]? with
  | none => rfl
  | some a => exact hans a (List.mem_of_getElem? (by rw [List.getElem?_take_of_lt hj, ha]))

/-- WRCHUNK's loop whose appends are all taken runs to its end: the requests for 8 bits, and then the one for the bits
that are left, if any (R136, R137). -/
theorem writeLoop_runs {w : Nat} {s : State} (hans : ∀ j, j < (s.pcnt.toNat + w) / 8 → s.appendAnswer j = .ok) :
    ∃ t, writeLoop (chunkReqs w) 0 0 s = (.ran w, t) := by
  obtain ⟨u, hloop, hcnt, hlater, _⟩ := writeLoop_full (w / 8) (chunkReqs (w % 8)) 0 0 s fun j hj => hans j (by omega)
  rw [← chunkReqs_mul_eight_add, Nat.div_add_mod] at hloop
  rw [hloop]
  rcases Nat.eq_zero_or_pos (w % 8) with hnone | hleft
  · rw [hnone, show 0 + 8 * (w / 8) = w by omega]; exact ⟨u, rfl⟩
  have hroom : u.pcnt.toNat + w % 8 < 8 ∨ u.nextAppend = .ok := by
    rw [hcnt]
    exact (Nat.lt_or_ge _ 8).imp_right fun h8 => (hlater 0).trans (hans _ (by omega))
  obtain ⟨n, t, hwrite⟩ := writeBits_ok hroom
  refine ⟨t, ?_⟩
  rw [chunkReqs_of_lt_eight hleft (Nat.mod_lt w (by decide)), writeLoop, hwrite]
  simp [writeLoop, Nat.div_add_mod]

/-- The accepted bits are 8 for each byte of WS, and the pending ones (R38 (c)). -/
theorem writtenBits_length (s : State) : s.writtenBits.length = 8 * s.stores.ws.len + s.pcnt.toNat := by
  have hp : s.pcnt.toNat < 8 := s.pcnt.isLt
  simp [State.writtenBits, bytes_length]; omega

/-- Settles O28: the loop runs to its end and so has accepted the chunk's bits, whose number says how many bytes were
appended and how many bits are pending. -/
theorem wrchunkSendsTheChunk : Obligations.WrchunkSendsTheChunk := by
  intro s w h1 hw hcb hs ha htake hans
  have hbuf := ceil8_le_cb_length hcb hw
  obtain ⟨t, hloop⟩ := writeLoop_runs (w := w.toNat) fun j => appendAnswer_ok htake hans
  obtain ⟨hbits, hacc⟩ := writeLoop_accepts hs ha (by omega) hloop
  obtain ⟨_, hturn, _, hpoison⟩ := writeLoop_frame (chunkReqs w.toNat) 0 0 s hs
  rw [hloop] at hturn hpoison
  have hfree : t.chPoison = false := by simpa using hpoison
  have hexec : exec (.wrchunk w) s = .next (t.respond .ok w.toNat 0 0 0) := by
    rw [exec_wrchunk_run h1 hw hs, runWrchunk, hloop]; rfl
  have hlen : 8 * t.stores.ws.len + t.pcnt.toNat = 8 * s.stores.ws.len + s.pcnt.toNat + w.toNat := by
    have hchunk : ((streamBits (s.cb.drop 0)).take w.toNat).length = w.toNat := by
      unfold ceil8 at hbuf
      simp; omega
    rw [← writtenBits_length, ← writtenBits_length, hbits, List.length_append, hchunk]
  have hpend : t.pcnt.toNat < 8 := t.pcnt.isLt
  have hcount : (BitVec.ofNat 16 w.toNat).toNat = w.toNat := by simp
  exact ⟨_, hexec, hbits, ⟨rfl, hcount, rfl, rfl, rfl⟩, by rw [respond_pcnt]; omega, hacc,
    by rw [respond_stores]; omega, hfree, wrchunk_frame hexec, hturn⟩

end Sys2Proof.Machine
end

section
/-! PROOFS. The order of keys is total, the fixed-width comparator decides it, and both searches meet the contract on a
sorted table (R151, R152, R154, R155). -/

namespace Sys2Proof.Machine

/-! ### The order of keys -/

theorem cmpkey_lt_iff_gt (a b : Key) : cmpkey a b = .lt ↔ cmpkey b a = .gt := by
  rw [← cmpkey_swap a b, Ordering.swap_eq_gt]

/-- Settles O33: `cmpkey` is the lexicographic comparison of the bytes and the width. -/
theorem keysAreTotallyOrdered : Obligations.KeysAreTotallyOrdered :=
  ⟨cmpkey_eq_iff, cmpkey_lt_iff_gt, fun _ _ _ => cmpkey_lt_trans⟩

/-! ### The fixed-width comparator -/

@[simp] theorem zpad_zero (bs : List Byte) : zpad 0 bs = 0 := rfl

/-- One byte more at the end. -/
theorem zpad_succ (n : Nat) (bs : List Byte) : zpad (n + 1) bs = zpad n bs * 256 + (bs.getD n 0).toNat := by
  rw [zpad, List.range_succ, List.foldl_append]; rfl

theorem zpad_lt (n : Nat) (bs : List Byte) : zpad n bs < 256 ^ n := by
  induction n with
  | zero => simp
  | succ n ih =>
    have hbyte := (bs.getD n 0).isLt
    rw [zpad_succ, pow_succ]
    omega

@[simp] theorem zpad_nil (n : Nat) : zpad n [] = 0 := by
  induction n with
  | zero => rfl
  | succ n ih => rw [zpad_succ, ih]; rfl

/-- The first byte is the most significant. -/
theorem zpad_cons (n : Nat) (b : Byte) (bs : List Byte) : zpad (n + 1) (b :: bs) = b.toNat * 256 ^ n + zpad n bs := by
  induction n with
  | zero => simp [zpad_succ]
  | succ n ih => rw [zpad_succ, ih, zpad_succ n bs, List.getD_cons_succ]; ring

/-- Two numbers in base `K` compare by their high digits, then by what stands below them. -/
theorem compare_digits {K p q : Nat} (x y : Nat) (hp : p < K) (hq : q < K) :
    compare (x * K + p) (y * K + q) = (compare x y).then (compare p q) := by
  rcases Nat.lt_trichotomy x y with h | rfl | h
  · have hdigit : (x + 1) * K ≤ y * K := Nat.mul_le_mul_right K h
    rw [Nat.compare_eq_lt.2 h, Nat.compare_eq_lt.2 (by rw [Nat.add_mul] at hdigit; omega)]; rfl
  · rw [Nat.compare_eq_eq.2 rfl]; simp [Nat.compare_eq_ite_lt]
  · have hdigit : (y + 1) * K ≤ x * K := Nat.mul_le_mul_right K h
    rw [Nat.compare_eq_gt.2 h, Nat.compare_eq_gt.2 (by rw [Nat.add_mul] at hdigit; omega)]; rfl

theorem compare_zero_then_lt (m : Nat) : (compare 0 m).then .lt = .lt := by cases m <;> rfl

theorem compare_zero_then_gt (m : Nat) : (compare m 0).then .gt = .gt := by cases m <;> rfl

/-- Keys' bytes compare as the padded numbers, and by their lengths where those are equal: then the longer one ends in
zero bytes (R152). -/
theorem cmpbytes_eq_zpad {n : Nat} {a b : List Byte} (ha : a.length ≤ n) (hb : b.length ≤ n) :
    cmpbytes a b = (compare (zpad n a) (zpad n b)).then (compare a.length b.length) := by
  induction n generalizing a b with
  | zero =>
    rw [List.eq_nil_of_length_eq_zero (Nat.le_zero.1 ha), List.eq_nil_of_length_eq_zero (Nat.le_zero.1 hb)]; rfl
  | succ n ih =>
    match a, b with
    | [], [] => simp [cmpbytes]
    | [], y :: b =>
      have hlen : compare 0 (b.length + 1) = .lt := Nat.compare_eq_lt.2 (Nat.succ_pos _)
      rw [zpad_nil, List.length_nil, List.length_cons, hlen, compare_zero_then_lt, cmpbytes]
    | x :: a, [] =>
      have hlen : compare (a.length + 1) 0 = .gt := Nat.compare_eq_gt.2 (Nat.succ_pos _)
      rw [zpad_nil, List.length_nil, List.length_cons, hlen, compare_zero_then_gt, cmpbytes]
    | x :: a, y :: b =>
      have hlen : compare (x :: a).length (y :: b).length = compare a.length b.length := by
        simp [Nat.compare_eq_ite_lt]
      rw [cmpbytes_cons, ih (Nat.le_of_succ_le_succ ha) (Nat.le_of_succ_le_succ hb), zpad_cons, zpad_cons,
        compare_digits _ _ (zpad_lt n a) (zpad_lt n b), hlen, Ordering.then_assoc]

theorem ceil8_le_ceil8 {u v : Nat} (h : u ≤ v) : ceil8 u ≤ ceil8 v := by
  unfold ceil8; omega

/-- Of two widths the one that needs more bytes is the larger. -/
theorem compare_ceil8_then (u v : Nat) : (compare (ceil8 u) (ceil8 v)).then (compare u v) = compare u v := by
  rcases Nat.lt_trichotomy (ceil8 u) (ceil8 v) with h | h | h
  · have huv : u < v := Nat.lt_of_not_le fun hle => Nat.not_le_of_lt h (ceil8_le_ceil8 hle)
    rw [Nat.compare_eq_lt.2 h, Nat.compare_eq_lt.2 huv]; rfl
  · rw [Nat.compare_eq_eq.2 h]; rfl
  · have hvu : v < u := Nat.lt_of_not_le fun hle => Nat.not_le_of_lt h (ceil8_le_ceil8 hle)
    rw [Nat.compare_eq_gt.2 h, Nat.compare_eq_gt.2 hvu]; rfl

theorem cmpkeyFixed_eq_then (n : Nat) (a b : Key) :
    cmpkeyFixed n a b = (compare (zpad n a.1) (zpad n b.1)).then (compare a.2.toNat b.2.toNat) := by
  rw [cmpkeyFixed, ite_lt_eq_then, ite_lt_eq_then, Ordering.then_eq]

/-- Settles O34: where the padded numbers are equal the bytes compare by their lengths, which are those of the widths. -/
theorem fixedWidthComparatorAgrees : Obligations.FixedWidthComparatorAgrees := by
  intro n a b ha hb han hbn
  rw [cmpkeyFixed_eq_then, cmpkey_eq_then, cmpbytes_eq_zpad han hbn, ha, hb, Ordering.then_assoc, compare_ceil8_then]

/-! ### The search and its contract -/

/-- Of two entries of a sorted table the one further up has the greater key. -/
theorem sortedEntries_lt {es : List Entry} (hs : sortedEntries es) {i j : Nat} (hij : i < j) (hj : j < es.length) :
    cmpkey (es[i]'(hij.trans hj)).key es[j].key = .lt :=
  List.pairwise_iff_getElem.1 hs i j (hij.trans hj) hj hij

/-- In a sorted table the entry with the key is the one that is found (R154). -/
theorem search_found {k : Key} {es : List Entry} (hs : sortedEntries es) {i : Nat} (hi : i < es.length)
    (hk : cmpkey k es[i].key = .eq) : search k es = (true, i) := by
  rcases search_cases k es with ⟨j, hj, hfound, hkj⟩ | ⟨hnone, _⟩
  · have hkeys : es[i].key = es[j].key := ((cmpkey_eq_iff _ _).1 hk).symm.trans ((cmpkey_eq_iff _ _).1 hkj)
    have hsame : cmpkey es[i].key es[j].key = .eq ∧ cmpkey es[j].key es[i].key = .eq :=
      ⟨(cmpkey_eq_iff _ _).2 hkeys, (cmpkey_eq_iff _ _).2 hkeys.symm⟩
    rcases Nat.lt_trichotomy i j with h | rfl | h
    · have := (sortedEntries_lt hs h hj).symm.trans hsame.1; cases this
    · exact hfound
    · have := (sortedEntries_lt hs h hi).symm.trans hsame.2; cases this
  · exact absurd hk (hnone _ (List.getElem_mem hi))

/-- A key that no entry has is not found: the answer is the number of entries less than it (R154). -/
theorem search_not_found {k : Key} {es : List Entry} (hk : ∀ e ∈ es, cmpkey k e.key ≠ .eq) :
    search k es = (false, es.countP fun e => cmpkey e.key k == .lt) := by
  rcases search_cases k es with ⟨i, hi, _, hki⟩ | ⟨_, h⟩
  · exact absurd hki (hk _ (List.getElem_mem hi))
  · exact h

/-- The entries below the insertion point are less than the key, those from it on greater (R154). -/
theorem insertion_point {k : Key} {es : List Entry} (hs : sortedEntries es) {p : Nat}
    (hk : ∀ e ∈ es, cmpkey k e.key ≠ .eq) (hp : p = es.countP fun e => cmpkey e.key k == .lt) :
    (∀ i (h : i < es.length), i < p → cmpkey es[i].key k = .lt) ∧
    (∀ i (h : i < es.length), p ≤ i → cmpkey k es[i].key = .lt) := by
  obtain ⟨hbelow, habove⟩ := hp ▸ sortedEntries_split hs hk
  refine ⟨fun i h hip => hbelow _ ?_, fun i h hpi => habove _ ?_⟩
  · exact List.mem_take_iff_getElem.2 ⟨i, by omega, rfl⟩
  · exact List.mem_drop_iff_getElem.2 ⟨i - p, by omega, by congr 1; omega⟩

/-- Settles O35: what the definition of the search finds is the only entry with the key, and the number of entries less
than a new key divides a sorted table. -/
theorem searchMeetsItsContract : Obligations.SearchMeetsItsContract := by
  refine fun k es hs => ⟨fun i hi hk => search_found hs hi hk, fun hk => ⟨_, search_not_found hk, ?_, rfl, ?_⟩⟩
  · exact List.countP_le_length
  · exact insertion_point hs hk rfl

/-! ### The reference search -/

/-- A place with the entries less than the key below it and the greater ones from it on is the insertion point. -/
theorem search_of_split {k : Key} {es : List Entry} {p : Nat} (hp : p ≤ es.length)
    (hbelow : ∀ i (h : i < es.length), i < p → cmpkey es[i].key k = .lt)
    (habove : ∀ i (h : i < es.length), p ≤ i → cmpkey k es[i].key = .lt) : search k es = (false, p) := by
  have htake : (es.take p).countP (fun e => cmpkey e.key k == .lt) = p := by
    refine (List.countP_eq_length.2 fun e he => ?_).trans (List.length_take_of_le hp)
    obtain ⟨i, hi, rfl⟩ := List.mem_take_iff_getElem.1 he
    simpa using hbelow i (by omega) (by omega)
  have hdrop : (es.drop p).countP (fun e => cmpkey e.key k == .lt) = 0 := by
    refine List.countP_eq_zero.2 fun e he => ?_
    obtain ⟨i, hi, rfl⟩ := List.mem_drop_iff_getElem.1 he
    simpa using cmpkey_not_lt_of_lt (habove (p + i) (by omega) (by omega))
  have hcount : es.countP (fun e => cmpkey e.key k == .lt) = p := by
    rw [← List.take_append_drop p es, List.countP_append, htake, hdrop, Nat.add_zero]
  refine hcount ▸ search_not_found fun e he heq => ?_
  obtain ⟨i, hi, rfl⟩ := List.mem_iff_getElem.1 he
  by_cases hip : i < p
  · rw [← cmpkey_swap, hbelow i hi hip] at heq; cases heq
  · rw [habove i hi (by omega)] at heq; cases heq

/-- While the entries below the interval are less than the key and those above it greater, and the probes suffice for its
length, the loop answers what the search does (R155). -/
theorem refSearchLoop_eq_search {k : Key} {es : List Entry} (hs : sortedEntries es) (fuel : Nat) {lo hi : Nat}
    (hlo : lo ≤ hi) (hhi : hi ≤ es.length) (hfuel : hi - lo ≤ fuel)
    (hbelow : ∀ i (h : i < es.length), i < lo → cmpkey es[i].key k = .lt)
    (habove : ∀ i (h : i < es.length), hi ≤ i → cmpkey k es[i].key = .lt) :
    refSearchLoop k es fuel lo hi = search k es := by
  induction fuel generalizing lo hi with
  | zero =>
    obtain rfl : lo = hi := by omega
    exact (search_of_split hhi hbelow habove).symm
  | succ fuel ih =>
    rw [refSearchLoop]
    split
    · next hlt =>
      have hmid : lo ≤ lo + (hi - lo) / 2 ∧ lo + (hi - lo) / 2 < hi := by omega
      have hm : lo + (hi - lo) / 2 < es.length := by omega
      simp only [List.getElem?_eq_getElem hm]
      generalize lo + (hi - lo) / 2 = m at hmid hm ⊢
      cases hcmp : cmpkey k es[m].key with
      | eq => exact (search_found hs hm hcmp).symm
      | lt =>
        refine ih (by omega) (by omega) (by omega) hbelow fun i h hmi => ?_
        rcases Nat.eq_or_lt_of_le hmi with rfl | hmi
        · exact hcmp
        · exact cmpkey_lt_trans hcmp (sortedEntries_lt hs hmi h)
      | gt =>
        have hless : cmpkey es[m].key k = .lt := (cmpkey_lt_iff_gt _ _).2 hcmp
        refine ih (by omega) hhi (by omega) (fun i h him => ?_) habove
        rcases Nat.eq_or_lt_of_le (Nat.le_of_lt_succ him) with rfl | him
        · exact hless
        · exact cmpkey_lt_trans (sortedEntries_lt hs him hm) hless
    · obtain rfl : lo = hi := by omega
      exact (search_of_split hhi hbelow habove).symm

/-- Settles O36: the loop starts with the whole table as its interval and as many probes as entries. -/
theorem binarySearchMeetsTheContract : Obligations.BinarySearchMeetsTheContract := fun k es hs =>
  refSearchLoop_eq_search hs es.length (Nat.zero_le _) (Nat.le_refl _) (by omega) (fun _ _ h => absurd h (by omega))
    (fun _ h hle => absurd h (by omega))

end Sys2Proof.Machine
end

section
/-! PROOFS. ADDINC: which entry or place it finds, when the table is full, what it writes, and that only the chunk's bits
matter (R153, R156 to R160, R162). -/

namespace Sys2Proof.Machine

/-! ### The entries and the slots -/

theorem slot_mem_entries {s : State} {i : Nat} (hi : i < s.tsize.toNat) : s.slot i ∈ s.entries :=
  List.mem_map.2 ⟨i, List.mem_range.2 hi, rfl⟩

/-- A key that is in no slot below `TSIZE` is no entry's. -/
theorem cmpkey_ne_eq_of_slots {s : State} {k : Key} (h : ∀ i, i < s.tsize.toNat → (s.slot i).key ≠ k) :
    ∀ e ∈ s.entries, cmpkey k e.key ≠ .eq := by
  intro e he heq
  obtain ⟨i, hi, rfl⟩ := List.mem_map.1 he
  exact h i (List.mem_range.1 hi) ((cmpkey_eq_iff _ _).1 heq).symm

/-- The slots of a table that is written are its entries. -/
theorem setEntries_slot (s : State) {es : List Entry} {i : Nat} (hi : i < es.length) :
    (s.setEntries es).slot i = es[i] := by
  simp [State.slot, List.getD_eq_getElem?_getD, List.getElem?_append_left hi, hi]

theorem insertEntry_eq_insertIdx {p : Nat} (e : Entry) {es : List Entry} (hp : p ≤ es.length) :
    insertEntry p e es = es.insertIdx p e := by
  induction p generalizing es with
  | zero => rfl
  | succ p ih =>
    cases es with
    | nil => cases hp
    | cons x es => exact congrArg (x :: ·) (ih (Nat.le_of_succ_le_succ hp))

/-! ### The capacity -/

theorem tableMax_le {p : Params} (hp : p.wf) : tableMax p ≤ 2 ^ 24 := Nat.pow_le_pow_right (by decide) hp.2.2

theorem tcap_le_tableMax {s : State} (h : s.capacityOk) : s.tcap.toNat ≤ tableMax s.par := by
  obtain ⟨_, hpow, _⟩ := h
  obtain ⟨n, hn, hcap⟩ := List.mem_map.1 hpow
  exact hcap ▸ Nat.pow_le_pow_right (by decide) (Nat.le_of_lt_succ (List.mem_range.1 hn))

/-- An insertion cannot be made exactly when every slot of the entry RAM is used: the capacity is a power of two, so one
that cannot double is `TABLE_MAX` (R31, R159, R160). -/
theorem tableFull_iff {s : State} (h : s.capacityOk) : s.tableFull = true ↔ s.tsize.toNat = tableMax s.par := by
  have hmax := tcap_le_tableMax h
  obtain ⟨hle, hpow, _⟩ := h
  obtain ⟨n, hn, hcap⟩ := List.mem_map.1 hpow
  have hcap' : s.tcap.toNat = 2 ^ n := hcap.symm
  rw [State.tableFull, Bool.and_eq_true, beq_iff_eq, decide_eq_true_eq, ← BitVec.toNat_inj]
  constructor
  · rintro ⟨hsize, hdouble⟩
    rw [hcap', ← pow_succ', tableMax, Nat.pow_lt_pow_iff_right (by decide)] at hdouble
    have hlog : s.par.tableLog2 ≤ n := Nat.le_of_lt_succ hdouble
    exact Nat.le_antisymm (hle.trans hmax) (hsize ▸ hcap' ▸ Nat.pow_le_pow_right (by decide) hlog)
  · intro hsize
    have hpos : 0 < s.tcap.toNat := hcap' ▸ Nat.two_pow_pos n
    exact ⟨by omega, by omega⟩

/-! ### The entry or the place that ADDINC finds -/

section
variable {s : State} {w : BitVec 16} (h1 : 1 ≤ w.toNat) (hw : w.toNat ≤ s.par.wMax) (hf : s.tFatal = false)
include h1 hw hf

/-- ADDINC that passes its checks does what its search says (R156). -/
theorem exec_addinc_run {found : Bool} {p : Nat} (hsearch : search (s.cbKey w) s.entries = (found, p)) :
    exec (.addinc w) s = .next (if found then incrementAt p s else insertAt p (s.cbKey w) s) := by
  cases found <;> simp [exec, execAddinc, widthOk, h1, hw, hf, hsearch]

theorem exec_addinc_known (hsorted : sortedEntries s.entries) {i : Nat} (hi : i < s.tsize.toNat)
    (hk : (s.slot i).key = s.cbKey w) : exec (.addinc w) s = .next (incrementAt i s) := by
  have hi' : i < s.entries.length := by simpa using hi
  have hkey : cmpkey (s.cbKey w) s.entries[i].key = .eq := (cmpkey_eq_iff _ _).2 (by rw [entries_getElem, hk])
  exact exec_addinc_run h1 hw hf (search_found hsorted hi' hkey)

/-- A new key goes where the entries below are less and those from there on greater (R159). -/
theorem exec_addinc_new (hsorted : sortedEntries s.entries)
    (hk : ∀ i, i < s.tsize.toNat → (s.slot i).key ≠ s.cbKey w) :
    ∃ p, exec (.addinc w) s = .next (insertAt p (s.cbKey w) s) ∧ p ≤ s.tsize.toNat ∧
      (∀ i, i < p → cmpkey (s.slot i).key (s.cbKey w) = .lt) ∧
      (∀ i, p ≤ i → i < s.tsize.toNat → cmpkey (s.cbKey w) (s.slot i).key = .lt) := by
  have hnew := cmpkey_ne_eq_of_slots hk
  obtain ⟨p, hsearch, hp, _, hbelow, habove⟩ := (searchMeetsItsContract (s.cbKey w) s.entries hsorted).2 hnew
  simp only [entries_length, entries_getElem] at hp hbelow habove
  exact ⟨p, exec_addinc_run h1 hw hf hsearch, hp, fun i hip => hbelow i (by omega) hip, fun i hpi hi => habove i hi hpi⟩

end

/-! ### ADDINC of a known key -/

/-- A count below the limit does not wrap (R157, R158). -/
theorem count_succ_toNat {c : BitVec 32} (hc : c ≠ 0xFFFFFFFF) : (c + 1).toNat = c.toNat + 1 := by
  have hlimit : c.toNat ≠ 0xFFFFFFFF := fun h => hc (BitVec.eq_of_toNat_eq h)
  have hone : (1 : BitVec 32).toNat = 1 := rfl
  rw [BitVec.toNat_add, hone]
  omega

/-- A response index below `TABLE_MAX` fits its register (R21). -/
theorem idx_toNat {p : Params} (hp : p.wf) {i : Nat} (hi : i < tableMax p) : (BitVec.ofNat 24 i).toNat = i :=
  Nat.mod_eq_of_lt (hi.trans_le (tableMax_le hp))

/-- As many entries written as there were leave TSIZE. -/
theorem setEntries_of_length {s : State} {es : List Entry} (h : es.length = s.tsize.toNat) :
    s.setEntries es = { s with ent := (s.setEntries es).ent } := by
  rw [State.setEntries, h, BitVec.ofNat_toNat, BitVec.setWidth_eq]

/-- Settles O37: the entry that is found is written back with its count one higher. -/
theorem addincCountsAKnownKey : Obligations.AddincCountsAKnownKey := by
  intro s w i ⟨hpar, _, _, ⟨hcap, hsorted, _⟩, _⟩ h1 hw hf hi hk hc
  have hidx := idx_toNat hpar (hi.trans_le (hcap.1.trans (tcap_le_tableMax hcap)))
  have hexec := exec_addinc_known h1 hw hf hsorted hi hk
  rcases incrementAt_cases i s with ⟨hlimit, _⟩ | ⟨_, e⟩
  · exact absurd hlimit hc
  refine ⟨_, hexec.trans (congrArg _ e), ?_, fun j hj hji => ?_, ⟨rfl, rfl, rfl, count_succ_toNat hc, hidx⟩, ?_⟩
  · rw [respond_slot, setEntries_slot _ (by simpa using hi), List.getElem_set_self]
  · rw [respond_slot, setEntries_slot _ (by simpa using hj), List.getElem_set_ne (Ne.symm hji), entries_getElem]
  · rw [setEntries_of_length (by simp)]; rfl

/-- Settles O39: the table is left as it was. -/
theorem addincStopsAtTheCountLimit : Obligations.AddincStopsAtTheCountLimit := by
  intro s w i ⟨_, _, _, ⟨_, hsorted, _⟩, _⟩ h1 hw hf hi hk hc
  rcases incrementAt_cases i s with ⟨_, e⟩ | ⟨hbelow, _⟩
  · rw [exec_addinc_known h1 hw hf hsorted hi hk, e]; rfl
  · exact absurd hc hbelow

/-! ### ADDINC of a new key -/

/-- An entry inserted at `p`: the slots below keep what they held, the entries from `p` on are one slot up (R159). -/
theorem inserted_slots {s : State} {p : Nat} (e : Entry) (hp : p ≤ s.tsize.toNat) :
    (∀ i, i < p → (s.grow.setEntries (insertEntry p e s.entries)).slot i = s.slot i) ∧
    (s.grow.setEntries (insertEntry p e s.entries)).slot p = e ∧
    (∀ i, p ≤ i → i < s.tsize.toNat → (s.grow.setEntries (insertEntry p e s.entries)).slot (i + 1) = s.slot i) := by
  have hp' : p ≤ s.entries.length := by simpa using hp
  have hlen : (s.entries.insertIdx p e).length = s.tsize.toNat + 1 := by simp [List.length_insertIdx, hp]
  rw [insertEntry_eq_insertIdx e hp']
  refine ⟨fun i hip => ?_, ?_, fun i hpi hi => ?_⟩
  · rw [setEntries_slot _ (by omega), List.getElem_insertIdx_of_lt hip, entries_getElem]
  · rw [setEntries_slot _ (by omega), List.getElem_insertIdx_self]
  · rw [setEntries_slot _ (by omega), List.getElem_insertIdx_of_gt (by omega), entries_getElem, Nat.add_sub_cancel]

/-- Where the size has room below `2 ^ 24` the doubled capacity fits its register (R31, R159). -/
theorem grow_tcap_toNat {s : State} (h : s.tsize.toNat < 2 ^ 24) :
    s.grow.tcap.toNat = if s.tsize = s.tcap then 2 * s.tcap.toNat else s.tcap.toNat := by
  rw [grow_tcap]
  split
  · next hfit => exact Nat.mod_eq_of_lt (by rw [← hfit]; omega)
  · rfl

/-- Settles O40: no slot is left and the capacity cannot double. -/
theorem addincStopsWhenTheTableIsFull : Obligations.AddincStopsWhenTheTableIsFull := by
  intro s w ⟨_, _, _, ⟨hcap, hsorted, _⟩, _⟩ h1 hw hf hk hsize
  obtain ⟨p, hexec, _⟩ := exec_addinc_new h1 hw hf hsorted hk
  rw [hexec, insertAt, if_pos ((tableFull_iff hcap).2 hsize)]; rfl

/-- Settles O38: the entry is inserted at the place that the search answers, where it divides the table. -/
theorem addincInsertsANewKey : Obligations.AddincInsertsANewKey := by
  intro s w ⟨hpar, _, _, ⟨hcap, hsorted, _⟩, _⟩ h1 hw hf hk hroom
  have hfull : s.tableFull = false := by simpa using mt (tableFull_iff hcap).1 hroom.ne
  have hmax := tableMax_le hpar
  obtain ⟨p, hexec, hp, hbelow, habove⟩ := exec_addinc_new h1 hw hf hsorted hk
  rcases insertAt_cases p (s.cbKey w) s with ⟨hfull', _⟩ | ⟨_, e⟩
  · rw [hfull] at hfull'; cases hfull'
  obtain ⟨hkept, hnew, hup⟩ := inserted_slots { pat := (s.cbKey w).1, width := (s.cbKey w).2, count := 1 } hp
  refine ⟨_, p, hexec.trans (congrArg _ e), hp, fun i hip => ⟨hkept i hip, hbelow i hip⟩, hnew,
    fun i hpi hi => ⟨hup i hpi hi, habove i hpi hi⟩, ?_, ?_, ⟨rfl, rfl, rfl, rfl, idx_toNat hpar (by omega)⟩, ?_⟩
  · rw [respond_tsize, setEntries_tsize, insertEntry_length, entries_length]
    exact Nat.mod_eq_of_lt (by omega)
  · exact grow_tcap_toNat (by omega)
  · unfold State.grow; split <;> rfl

/-! ### The sum of the counts -/

theorem sum_set_add_getElem (l : List Nat) {p : Nat} (hp : p < l.length) (a : Nat) :
    (l.set p a).sum + l[p] = l.sum + a := by
  have hset := List.sum_set l p a
  have hsame := List.sum_set l p l[p]
  rw [if_pos hp] at hset hsame
  rw [List.set_getElem_self] at hsame
  omega

theorem countSum_setEntries (s : State) {es : List Entry} (h : es.length < 2 ^ 25) :
    (s.setEntries es).countSum = (es.map fun e => e.count.toNat).sum := by
  rw [State.countSum, setEntries_entries s es h]

theorem countSum_counted {s : State} {p : Nat} (hp : p < s.entries.length) (hc : (s.slot p).count ≠ 0xFFFFFFFF) :
    (s.setEntries (s.entries.set p { s.slot p with count := (s.slot p).count + 1 })).countSum = s.countSum + 1 := by
  rw [countSum_setEntries s (by simpa using s.tsize.isLt), List.map_set, count_succ_toNat hc]
  have hsum := sum_set_add_getElem (s.entries.map fun e => e.count.toNat) (by simpa using hp)
    ((s.slot p).count.toNat + 1)
  rw [List.getElem_map, entries_getElem] at hsum
  rw [State.countSum]
  omega

theorem countSum_inserted {s : State} {e : Entry} (p : Nat) (hsize : s.tsize.toNat + 1 < 2 ^ 25) :
    (s.grow.setEntries (insertEntry p e s.entries)).countSum = s.countSum + e.count.toNat := by
  have hparts : s.countSum = ((s.entries.take p ++ s.entries.drop p).map fun e => e.count.toNat).sum := by
    rw [List.take_append_drop, State.countSum]
  rw [countSum_setEntries _ (by simpa using hsize), hparts, insertEntry, List.map_append, List.map_append, List.map_cons,
    List.sum_append, List.sum_append, List.sum_cons]
  omega

theorem code_eq_zero_iff (st : Status) : st.code = 0 ↔ st = .ok := by cases st <;> decide

/-- A response with a failure to a state with the same entries. -/
theorem sum_or_entries_of_failure {s u : State} {st : Status} (hst : st ≠ .ok) (hu : u.entries = s.entries) :
    ((u.reject st).rStat = 0 → (u.reject st).countSum = s.countSum + 1) ∧
    ((u.reject st).rStat ≠ 0 → (u.reject st).entries = s.entries) :=
  ⟨fun h => absurd ((code_eq_zero_iff st).1 h) hst, fun _ => hu⟩

/-- Settles O41: by the ways ADDINC goes; the two that end with OK write one count more. -/
theorem addincRaisesTheSumByOne : Obligations.AddincRaisesTheSumByOne := by
  intro s t w ⟨hpar, _, _, ⟨hcap, _, _⟩, _⟩ h
  rcases execAddinc_cases w s with ⟨_, e⟩ | ⟨_, _, e⟩ | ⟨_, _, p, hsearch, e⟩ | ⟨_, _, p, _, e⟩ <;>
    obtain rfl := Host.Outcome.next.inj (e.symm.trans h)
  · exact sum_or_entries_of_failure (by decide) rfl
  · exact sum_or_entries_of_failure (by decide) rfl
  · rcases incrementAt_cases p s with ⟨_, e'⟩ | ⟨hc, e'⟩ <;> rw [e']
    · exact sum_or_entries_of_failure (by decide) rfl
    · rcases search_cases (s.cbKey w) s.entries with ⟨i, hi, hfound, _⟩ | ⟨_, hnone⟩
      · obtain rfl : i = p := congrArg Prod.snd (hfound.symm.trans hsearch)
        exact ⟨fun _ => countSum_counted hi hc, fun hst => absurd rfl hst⟩
      · rw [hnone] at hsearch; cases hsearch
  · rcases insertAt_cases p (s.cbKey w) s with ⟨_, e'⟩ | ⟨hfull, e'⟩ <;> rw [e']
    · exact sum_or_entries_of_failure (by decide) rfl
    · have hsize := (grow_capacity hpar hcap hfull).1.trans_lt s.grow.tcap.isLt
      exact ⟨fun _ => countSum_inserted p hsize, fun hst => absurd rfl hst⟩

/-! ### The bits of the chunk -/

/-- Two bytes that agree in stream order are equal (R12). -/
theorem byte_eq_of_bits {a b : Byte} (h : ∀ x, x < 8 → a.getLsbD (7 - x) = b.getLsbD (7 - x)) : a = b := by
  refine BitVec.eq_of_getLsbD_eq fun i hi => ?_
  have hbit := h (7 - i) (by omega)
  rwa [show 7 - (7 - i) = i by omega] at hbit

/-- The canonical chunk depends on its own `w` bits alone (R13, R153). -/
theorem canon_eq_of_bits {B B' : List Byte} {w : Nat}
    (h : ∀ j, j < w → (B.getD (j / 8) 0).getLsbD (7 - j % 8) = (B'.getD (j / 8) 0).getLsbD (7 - j % 8)) :
    canon B w = canon B' w := by
  have hbyte : ∀ i x, x < 8 → 8 * i + x < w →
      (B.getD i 0).getLsbD (7 - x) = (B'.getD i 0).getLsbD (7 - x) := by
    intro i x hx hw
    have hbit := h (8 * i + x) hw
    rwa [show (8 * i + x) / 8 = i by omega, show (8 * i + x) % 8 = x by omega] at hbit
  refine List.map_congr_left fun i hi => byte_eq_of_bits fun x hx => ?_
  have hi' : 8 * i < w := lt_ceil8_iff.1 (List.mem_range.1 hi)
  split
  · next hlast =>
    have hused : lastbits w = w - 8 * i := by rw [lastbits, ← hlast, Nat.add_sub_cancel]
    have h8 : w - 8 * i ≤ 8 := by unfold ceil8 at hlast; omega
    rw [hused, and_himask_bit _ h8 hx, and_himask_bit _ h8 hx]
    by_cases hin : x < w - 8 * i
    · rw [hbyte i x hx (by omega)]
    · rw [decide_eq_false hin, Bool.and_false, Bool.and_false]
  · next hlast => exact hbyte i x hx (by unfold ceil8 at hlast hi; rw [List.mem_range] at hi; omega)

/-- The state with another chunk buffer. -/
abbrev State.withCb (s : State) (cb : List Byte) : State := { s with cb := cb }

theorem incrementAt_withCb (p : Nat) (s : State) (cb : List Byte) :
    incrementAt p (s.withCb cb) = (incrementAt p s).withCb cb := by
  have hslot : (s.withCb cb).slot p = s.slot p := rfl
  simp only [incrementAt, hslot]
  split_ifs <;> rfl

theorem insertAt_withCb (p : Nat) (k : Key) (s : State) (cb : List Byte) :
    insertAt p k (s.withCb cb) = (insertAt p k s).withCb cb := by
  have hfull : (s.withCb cb).tableFull = s.tableFull := rfl
  have hgrow : (s.withCb cb).grow = s.grow.withCb cb := by simp only [State.grow]; split_ifs <;> rfl
  rw [insertAt, insertAt, hfull, hgrow]
  split_ifs <;> rfl

/-- Settles O42: ADDINC takes nothing of the buffer but its key. -/
theorem addincIgnoresBitsOutsideTheChunk : Obligations.AddincIgnoresBitsOutsideTheChunk := by
  intro s t w cb' hbits h
  have hkey : (s.withCb cb').cbKey w = s.cbKey w := by rw [State.cbKey, State.cbKey, canon_eq_of_bits hbits]
  have hentries : (s.withCb cb').entries = s.entries := rfl
  show execAddinc w (s.withCb cb') = .next (t.withCb cb')
  rcases execAddinc_cases w s with ⟨hw, e⟩ | ⟨hw, hf, e⟩ | ⟨hw, hf, p, hsearch, e⟩ | ⟨hw, hf, p, hsearch, e⟩ <;>
    obtain rfl := Host.Outcome.next.inj (e.symm.trans h)
  · exact if_pos hw
  · simp only [execAddinc, hw, hf]; rfl
  · rw [← incrementAt_withCb]
    simp only [execAddinc, hw, hf, hkey, hentries, hsearch]; rfl
  · rw [← insertAt_withCb]
    simp only [execAddinc, hw, hf, hkey, hentries, hsearch]; rfl

end Sys2Proof.Machine
end

section
/-! PROOFS. TBLRD: the entry's pattern in the buffer (R163, R164). -/

namespace Sys2Proof.Machine

theorem map_getD_range_eq_self {l : List Byte} {n : Nat} (h : l.length = n) : (List.range n).map (l.getD · 0) = l := by
  subst h
  refine List.ext_getElem (by simp) fun i _ hi => ?_
  rw [List.getElem_map, List.getElem_range, List.getD_eq_getElem l 0 hi]

/-- The canonical pattern of an entry is its significant bytes (R30). -/
theorem Entry.ok.pat_length {p : Params} {e : Entry} (h : e.ok p) : e.pat.length = ceil8 e.width.toNat := by
  obtain ⟨_, _, hcanon, _⟩ := h
  rw [hcanon, canon_length]

theorem Entry.ok.patBytes_eq {p : Params} {e : Entry} (h : e.ok p) : e.patBytes = e.pat :=
  map_getD_range_eq_self h.pat_length

/-- Bytes that fit the buffer are its front once it is filled with them. -/
theorem fillCb_take (s : State) {bs : List Byte} (h : bs.length ≤ s.cb.length) :
    (s.fillCb bs).cb.take bs.length = bs := by
  rw [fillCb_cb, List.take_take, Nat.min_eq_left h, List.take_left']
  rfl

theorem exec_tblrd_run {s : State} {tidx : BitVec 24} (hf : s.tFatal = false) (hi : tidx.toNat < s.tsize.toNat) :
    exec (.tblrd tidx) s = .next ((s.fillCb (s.slot tidx.toNat).patBytes).respond .ok (s.slot tidx.toNat).width.toNat 0
      (s.slot tidx.toNat).count tidx.toNat) := by
  simp [exec, execTblrd, hf, hi]

/-- Settles O43: the entry's pattern is canonical, so it is the bytes copied, and they fit the buffer. -/
theorem tblrdDeliversTheEntry : Obligations.TblrdDeliversTheEntry := by
  intro s tidx ⟨_, hbuf, _, ⟨_, _, hok⟩, _⟩ hf hi
  have he := hok _ (slot_mem_entries hi)
  have ⟨_, hwidth, _, _⟩ := he
  have hbits : (BitVec.ofNat 16 (s.slot tidx.toNat).width.toNat).toNat = (s.slot tidx.toNat).width.toNat :=
    Nat.mod_eq_of_lt (s.slot tidx.toNat).width.isLt
  have hidx : BitVec.ofNat 24 tidx.toNat = tidx := by rw [BitVec.ofNat_toNat, BitVec.setWidth_eq]
  have hfits : (s.slot tidx.toNat).pat.length ≤ s.cb.length := he.pat_length ▸ ceil8_le_cb_length hbuf hwidth
  have hexec := exec_tblrd_run hf hi
  rw [he.patBytes_eq] at hexec
  rw [← he.pat_length]
  refine ⟨_, hexec, fillCb_take s hfits, fun j hj => fillCb_getElem?_of_le s hj,
    ⟨rfl, hbits, rfl, rfl, congrArg _ hidx⟩, ?_⟩
  rw [State.respond, hidx]; rfl

end Sys2Proof.Machine
end

section
/-! PROOFS. The channel and the table are independent: a channel command runs alike over any table, and ADDINC and TBLRD
over any channel (R161, R206). -/

namespace Sys2Proof.Machine

/-- The state with the table and the table's flag of another one. -/
abbrev State.withTableOf (s r : State) : State :=
  { s with ent := r.ent, tsize := r.tsize, tcap := r.tcap, tFatal := r.tFatal }

theorem readBits_withTableOf (count : Nat) (s r : State) :
    readBits count (s.withTableOf r) = (readBits count s).map id (·.withTableOf r) := by
  have hoverflow : (s.withTableOf r).cursorOverflows count = s.cursorOverflows count := rfl
  have hanswer : (s.withTableOf r).nextRead = s.nextRead := rfl
  simp only [readBits, storeRead, hoverflow, hanswer]
  cases s.cursorOverflows count <;> cases s.nextRead <;> rfl

theorem writeBits_withTableOf (count : Nat) (data : Byte) (s r : State) :
    writeBits count data (s.withTableOf r) = (writeBits count data s).map id (·.withTableOf r) := by
  have hanswer : (s.withTableOf r).nextAppend = s.nextAppend := rfl
  simp only [writeBits, storeAppend, hanswer]
  split_ifs
  · cases s.nextAppend <;> rfl
  · rfl

theorem readLoop_withTableOf (reqs : List Nat) (i total : Nat) (s r : State) :
    readLoop reqs i total (s.withTableOf r) = (readLoop reqs i total s).map id (·.withTableOf r) := by
  induction reqs generalizing i total s with
  | nil => rfl
  | cons req reqs ih =>
    rw [readLoop, readLoop, readBits_withTableOf]
    rcases readBits req s with ⟨⟨n, b, st⟩ | _, t⟩
    · have hrest := ih (i + 1) (total + n) (t.setCb i b)
      simp only [Prod.map, id]
      split_ifs
      · rfl
      · rfl
      · exact hrest
    · rfl

theorem writeLoop_withTableOf (reqs : List Nat) (i total : Nat) (s r : State) :
    writeLoop reqs i total (s.withTableOf r) = (writeLoop reqs i total s).map id (·.withTableOf r) := by
  induction reqs generalizing i total s with
  | nil => rfl
  | cons req reqs ih =>
    have hbyte : (s.withTableOf r).cbByte i = s.cbByte i := rfl
    rw [writeLoop, writeLoop, hbyte, writeBits_withTableOf]
    rcases writeBits req (s.cbByte i) s with ⟨⟨n, st⟩ | _, t⟩
    · have hrest := ih (i + 1) (total + req) t
      simp only [Prod.map, id]
      split_ifs
      · rfl
      · exact hrest
    · rfl

/-- How a command ends does not look at the table. -/
theorem endRead_withTableOf (x : BitRead × State) (r : State) :
    endRead (x.map id (·.withTableOf r)) = (endRead x).withTableOf r := by
  rcases x with ⟨_ | _, t⟩ <;> rfl

theorem endWrite_withTableOf (x : BitWrite × State) (r : State) :
    endWrite (x.map id (·.withTableOf r)) = (endWrite x).withTableOf r := by
  rcases x with ⟨_ | _, t⟩ <;> rfl

theorem endChunk_withTableOf (a : Agent) (f : Nat → Status) (x : ChunkEnd × State) (r : State) :
    endChunk a f (x.map id (·.withTableOf r)) = (endChunk a f x).withTableOf r := by
  rcases x with ⟨_ | _ | _, t⟩ <;> rfl

theorem channelRun_withTableOf (i : Instr) (s r : State) :
    channelRun (s.withTableOf r) i = (channelRun s i).withTableOf r := by
  cases i with
  | rdbits count => rw [channelRun, readBits_withTableOf, endRead_withTableOf, channelRun]
  | wrbits count data =>
    rw [channelRun, channelRun, ← endWrite_withTableOf]
    split_ifs
    · exact congrArg endWrite (writeBits_withTableOf (8 - s.pcnt.toNat) 0 s r)
    · exact congrArg endWrite (writeBits_withTableOf count.toNat data s r)
  | flush data =>
    rw [channelRun, channelRun, ← endWrite_withTableOf]
    exact congrArg endWrite (writeBits_withTableOf (8 - s.pcnt.toNat) 0 s r)
  | rdchunk w =>
    rw [channelRun, channelRun, ← endChunk_withTableOf]
    exact congrArg (endChunk _ _) (readLoop_withTableOf _ 0 0 (s.fillCb _) r)
  | wrchunk w =>
    rw [channelRun, channelRun, ← endChunk_withTableOf]
    exact congrArg (endChunk _ _) (writeLoop_withTableOf _ 0 0 s r)
  | nop | addinc | tblrd | ldcb | stcb | rdsr | chreset | tblreset => rfl

theorem channelAnswer_withTableOf (i : Instr) (s r : State) :
    channelAnswer (s.withTableOf r) i = channelAnswer s i := by
  cases i <;> rfl

/-- A channel command does the same over another table and leaves that table. -/
theorem exec_withTableOf {i : Instr} {s t : State} (hi : i.isChannel = true) (h : exec i s = .next t) (r : State) :
    exec i (s.withTableOf r) = .next (t.withTableOf r) := by
  rw [exec_channel hi, channelAnswer_withTableOf, channelRun_withTableOf]
  rcases channel_cases hi h with ⟨st, hst, rfl⟩ | ⟨hrun, rfl⟩
  · rw [hst]; rfl
  · rw [hrun]; rfl

/-- Settles O58: two runs over different tables, and two over different channels. -/
theorem channelAndTableAreIndependent : Obligations.ChannelAndTableAreIndependent := by
  intro i s t h
  refine ⟨fun hi ent tsize tcap f => ?_, fun hi rpos pbits pcnt p => ?_⟩
  · exact exec_withTableOf hi h { s with ent := ent, tsize := tsize, tcap := tcap, tFatal := f }
  · have htouch : touchesChannel i = false := by rcases hi with ⟨w, rfl⟩ | ⟨x, rfl⟩ <;> rfl
    exact exec_withOthers htouch h { s with rpos := rpos, pbits := pbits, pcnt := pcnt, chPoison := p }

end Sys2Proof.Machine
end

section
/-! PROOFS. The support commands NOP, LDCB, STCB, CHRESET and TBLRESET (R175, R176, R178, R182, R184): what each does in
every state, and the one word of those without operands. -/

namespace Sys2Proof.Machine

/-- A command that stands for a word of its own is the meaning of that word and of no other (R94, R95, R99). -/
theorem decode_eq_ok_iff {i : Instr} (hi : i.wellFormed = true) (c : Word) : decode c = .ok i ↔ c = encode i := by
  constructor
  · intro h
    exact (encode_of_decode h).1.symm
  · rintro rfl
    exact decode_encode hi

/-! ### The buffer -/

theorem exec_ldcb_run {s : State} {b : BitVec 16} {byte : Byte} (hb : b.toNat < pbMax s.par)
    (hbyte : s.cbByte b.toNat = byte) : exec (.ldcb b) s = .next (s.respond .ok 0 byte 0 0) := by
  simp [exec, execLdcb, bidxOk, hb, hbyte]

theorem exec_stcb_run {s : State} {b : BitVec 16} (data : Byte) (hb : b.toNat < pbMax s.par) :
    exec (.stcb b data) s = .next ((s.setCb b.toNat data).reject .ok) := by
  simp [exec, execStcb, bidxOk, hb]

/-- Settles O47: LDCB shows the byte of the buffer, and STCB sets the one byte it names. -/
theorem bufferLoadsSeeStores : Obligations.BufferLoadsSeeStores := by
  refine ⟨fun s b hb => exec_ldcb_run hb rfl, fun s b data hcb hb => ?_⟩
  have hother : ∀ j, j ≠ b.toNat → (s.setCb b.toNat data).cb[j]? = s.cb[j]? :=
    fun j hj => List.getElem?_set_ne hj.symm
  refine ⟨_, exec_stcb_run data hb, rfl, List.length_set .., hother, ?_, fun b' hne hb' => ?_⟩
  · exact exec_ldcb_run hb (cbByte_setCb_same data (hcb ▸ hb))
  · exact exec_ldcb_run hb' (cbByte_setCb_ne s data fun h => hne (BitVec.eq_of_toNat_eq h))

/-! ### The commands without operands -/

/-- Settles O46: NOP responds and does no more. -/
theorem nopOnlyAnswers : Obligations.NopOnlyAnswers :=
  ⟨fun _ => rfl, decode_eq_ok_iff rfl⟩

/-- Settles O50: the response follows on `State.clearChannel`. -/
theorem chresetClearsTheChannel : Obligations.ChresetClearsTheChannel :=
  ⟨fun _ => rfl, decode_eq_ok_iff rfl⟩

/-- Settles O51: the response follows on `State.clearTable`, and what clears the table's flag is known from O57. -/
theorem tblresetEmptiesTheTable : Obligations.TblresetEmptiesTheTable := by
  refine ⟨fun s => ⟨_, rfl, entries_eq_nil_of_tsize_eq_zero rfl, rfl⟩, decode_eq_ok_iff rfl, fun i s t h => ?_⟩
  obtain ⟨_, _, hcleared⟩ := fatalIsSetByExhaustionAlone i s t h
  exact hcleared

end Sys2Proof.Machine
end

section
/-! PROOFS. The status codes: the checks that answer INVALID_WIDTH, TABLE_FATAL and INDEX_RANGE (R196, R200, R201), and
the codes each command can end with (R190, R202). -/

namespace Sys2Proof.Machine

/-! ### At the checks -/

theorem widthOk_eq_false {p : Params} {w : BitVec 16} (h : w = 0 ∨ p.wMax < w.toNat) : widthOk p w = false := by
  rcases h with rfl | hmax
  · rfl
  · simp [widthOk, hmax]

/-- Settles O30: the three commands test the width before anything else (R203). -/
theorem invalidWidthOnlyAnswers : Obligations.InvalidWidthOnlyAnswers := by
  intro s w i hi hw
  rcases hi with rfl | rfl | rfl
  · exact if_pos (widthOk_eq_false hw)
  · exact if_pos (widthOk_eq_false hw)
  · exact if_pos (widthOk_eq_false hw)

theorem exec_tblrd_fatal {s : State} (hf : s.tFatal = true) (tidx : BitVec 24) :
    exec (.tblrd tidx) s = .next (s.reject .tableFatal) :=
  if_pos hf

theorem exec_addinc_fatal {s : State} {w : BitVec 16} (hw : widthOk s.par w = true) (hf : s.tFatal = true) :
    exec (.addinc w) s = .next (s.reject .tableFatal) := by
  simp [exec, execAddinc, hw, hf]

/-- Settles O44: the flag stops both commands at their check, and RDSR does not look at it. -/
theorem fatalTableRefuses : Obligations.FatalTableRefuses := by
  intro s hf
  refine ⟨fun w h1 hw => ?_, exec_tblrd_fatal hf, ?_, ?_⟩
  · exact exec_addinc_fatal (by simp [widthOk, h1, hw]) hf
  · exact exec_rdsr_exact (sel := 5) (by decide) (Bool.and_false _)
  · exact exec_rdsr_exact (sel := 6) (by decide) (Bool.and_false _)

theorem bidxOk_eq_false {p : Params} {bidx : BitVec 16} (h : pbMax p ≤ bidx.toNat) : bidxOk p bidx = false :=
  decide_eq_false (Nat.not_lt.2 h)

theorem exec_ldcb_range {s : State} {bidx : BitVec 16} (h : pbMax s.par ≤ bidx.toNat) :
    exec (.ldcb bidx) s = .next (s.reject .indexRange) :=
  if_pos (bidxOk_eq_false h)

theorem exec_stcb_range {s : State} {bidx : BitVec 16} (data : Byte) (h : pbMax s.par ≤ bidx.toNat) :
    exec (.stcb bidx data) s = .next (s.reject .indexRange) :=
  if_pos (bidxOk_eq_false h)

theorem exec_tblrd_range {s : State} {tidx : BitVec 24} (hf : s.tFatal = false) (h : s.tsize.toNat ≤ tidx.toNat) :
    exec (.tblrd tidx) s = .next (s.reject .indexRange) := by
  simp [exec, execTblrd, hf, h]

/-- Settles O45: each index is compared with its bound before it is used. -/
theorem indexOutOfRangeOnlyAnswers : Obligations.IndexOutOfRangeOnlyAnswers :=
  fun _ => ⟨fun _ => exec_ldcb_range, fun _ => exec_stcb_range, fun _ => exec_tblrd_range⟩

/-! ### The codes of the channel commands -/

theorem channelAnswer_code_mem {i : Instr} {s : State} {st : Status} (h : channelAnswer s i = some st) :
    st.code.toNat ∈ i.codes := by
  cases i with
  | rdbits | wrbits | flush | rdchunk | wrchunk =>
    simp only [channelAnswer] at h
    split_ifs at h <;> cases h <;> simp [Instr.codes, Status.code]
  | nop | addinc | tblrd | ldcb | stcb | rdsr | chreset | tblreset => cases h

theorem readStatus_code_mem (want got : Nat) : (readStatus want got).code.toNat ∈ [0, 1, 2] := by
  rw [readStatus_code]
  split_ifs <;> decide

theorem endRead_readBits_code_mem {count : Nat} {s : State} (hturn : (endRead (readBits count s)).turn = .host) :
    (endRead (readBits count s)).rStat.toNat ∈ [0, 1, 2, 3] := by
  have hfail : (Status.code .ioFailure).toNat ∈ [0, 1, 2, 3] := by decide
  rcases readBits_cases count s with ⟨_, e⟩ | ⟨_, _, e⟩ | ⟨_, _, e⟩ | ⟨_, _, _, _, _, _, _, _, e⟩ <;> rw [e] at hturn ⊢
  · exact hfail
  · exact hfail
  · cases hturn
  · exact List.mem_append_left [3] (readStatus_code_mem _ _)

theorem endWrite_writeBits_code_mem {count : Nat} {data : Byte} {s : State}
    (hturn : (endWrite (writeBits count data s)).turn = .host) :
    (endWrite (writeBits count data s)).rStat.toNat ∈ [0, 3] := by
  have hok : (Status.code .ok).toNat ∈ [0, 3] := by decide
  have hfail : (Status.code .ioFailure).toNat ∈ [0, 3] := by decide
  rcases writeBits_cases count data s with ⟨_, e⟩ | ⟨_, _, e⟩ | ⟨_, _, _, e⟩ | ⟨_, _, _, e⟩ <;> rw [e] at hturn ⊢
  · exact hok
  · exact hok
  · exact hfail
  · cases hturn

theorem endChunk_code_mem {codes : List Nat} {a : Agent} {f : Nat → Status} {r : ChunkEnd × State} (ha : a ≠ .host)
    (hran : ∀ n, (f n).code.toNat ∈ codes) (hfail : (Status.code .ioFailure).toNat ∈ codes)
    (hturn : (endChunk a f r).turn = .host) : (endChunk a f r).rStat.toNat ∈ codes := by
  rcases r with ⟨n | _ | _, t⟩
  · exact hran n
  · exact hfail
  · exact absurd hturn ha

/-- A run of the channel that has responded did so with one of its command's codes. -/
theorem channelRun_code_mem {i : Instr} {s : State} (hi : i.isChannel = true) (hturn : (channelRun s i).turn = .host) :
    (channelRun s i).rStat.toNat ∈ i.codes := by
  cases i with
  | rdbits => exact List.mem_append_left [6, 8] (endRead_readBits_code_mem hturn)
  | wrbits =>
    rw [channelRun] at hturn ⊢
    split_ifs at hturn ⊢
    · exact List.mem_append_left [6, 8] (endWrite_writeBits_code_mem hturn)
    · exact List.mem_append_left [6, 8] (endWrite_writeBits_code_mem hturn)
  | flush => exact List.mem_append_left [8] (endWrite_writeBits_code_mem hturn)
  | rdchunk w =>
    have hran (n : Nat) := List.mem_append_left [3, 5, 8] (readStatus_code_mem w.toNat n)
    exact endChunk_code_mem (by decide) hran (by decide : _ ∈ [0, 1, 2, 3, 5, 8]) hturn
  | wrchunk =>
    have hok : (Status.code .ok).toNat ∈ [0, 3, 5, 8] := by decide
    exact endChunk_code_mem (by decide) (fun _ => hok) (by decide : _ ∈ [0, 3, 5, 8]) hturn
  | nop | addinc | tblrd | ldcb | stcb | rdsr | chreset | tblreset => cases hi

/-! ### The codes of the other commands -/

/-- The command responds with one of its codes. -/
def RespondsWithItsCode (i : Instr) (s : State) : Prop :=
  ∃ st u n b v x, st.code.toNat ∈ i.codes ∧ exec i s = .next (State.respond u st n b v x)

theorem respondsWithItsCode {i : Instr} {s u : State} {st : Status} {n : Nat} {b : Byte} {v : BitVec 32} {x : Nat}
    (e : exec i s = .next (u.respond st n b v x)) (hst : i.codes.contains st.code.toNat = true) :
    RespondsWithItsCode i s :=
  ⟨st, u, n, b, v, x, List.contains_iff_mem.1 hst, e⟩

theorem addinc_respondsWithItsCode (w : BitVec 16) (s : State) : RespondsWithItsCode (.addinc w) s := by
  rcases execAddinc_cases w s with ⟨_, e⟩ | ⟨_, _, e⟩ | ⟨_, _, p, _, e⟩ | ⟨_, _, p, _, e⟩
  · exact respondsWithItsCode e rfl
  · exact respondsWithItsCode e rfl
  · rcases incrementAt_cases p s with ⟨_, e'⟩ | ⟨_, e'⟩ <;> rw [e'] at e
    · exact respondsWithItsCode e rfl
    · exact respondsWithItsCode e rfl
  · rcases insertAt_cases p (s.cbKey w) s with ⟨_, e'⟩ | ⟨_, e'⟩ <;> rw [e'] at e
    · exact respondsWithItsCode e rfl
    · exact respondsWithItsCode e rfl

theorem exec_respondsWithItsCode {i : Instr} (hi : i.isChannel = false) (s : State) : RespondsWithItsCode i s := by
  cases i with
  | nop | chreset | tblreset => exact respondsWithItsCode rfl rfl
  | addinc w => exact addinc_respondsWithItsCode w s
  | tblrd tidx =>
    cases hf : s.tFatal with
    | true => exact respondsWithItsCode (exec_tblrd_fatal hf tidx) rfl
    | false =>
      rcases Nat.lt_or_ge tidx.toNat s.tsize.toNat with hin | hout
      · exact respondsWithItsCode (exec_tblrd_run hf hin) rfl
      · exact respondsWithItsCode (exec_tblrd_range hf hout) rfl
  | ldcb bidx =>
    rcases Nat.lt_or_ge bidx.toNat (pbMax s.par) with hin | hout
    · exact respondsWithItsCode (exec_ldcb_run hin rfl) rfl
    · exact respondsWithItsCode (exec_ldcb_range hout) rfl
  | stcb bidx data =>
    rcases Nat.lt_or_ge bidx.toNat (pbMax s.par) with hin | hout
    · exact respondsWithItsCode (exec_stcb_run data hin) rfl
    · exact respondsWithItsCode (exec_stcb_range data hout) rfl
  | rdsr sel =>
    rcases Nat.lt_or_ge 6 sel.toNat with hillegal | hsel
    · exact respondsWithItsCode (exec_rdsr_illegal hillegal s) rfl
    · exact respondsWithItsCode (exec_rdsr hsel s) rfl
  | rdbits | wrbits | flush | rdchunk | wrchunk => cases hi

/-- Settles O53: the status is a check's answer, how the run of the channel ended, or the response of another command. -/
theorem commandsEndWithTheirCodes : Obligations.CommandsEndWithTheirCodes := by
  intro i s t _ h hturn
  cases hi : i.isChannel with
  | true =>
    rcases channel_cases hi h with ⟨st, hst, rfl⟩ | ⟨_, rfl⟩
    · exact channelAnswer_code_mem hst
    · exact channelRun_code_mem hi hturn
  | false =>
    obtain ⟨st, u, n, b, v, x, hst, e⟩ := exec_respondsWithItsCode hi s
    obtain rfl := Host.Outcome.next.inj (h.symm.trans e)
    exact hst

end Sys2Proof.Machine
end

section
/-! PROOFS. Hardware reset, taken at any time, and the steps of a block that has nothing to do or waits for a store
(R220 to R222, R236, R238). -/

namespace Sys2Proof.Machine

/-! ### The steps -/

theorem step_of_rst {s : State} {cbInit : List Byte} {q : List HostEvent} (hq : s.hostq = .rst cbInit :: q) :
    step s = .next ((s.taken q).hardReset cbInit) := by
  simp only [step, hq]

theorem step_of_idle {s : State} (hturn : s.turn = .host) (hq : s.hostq = []) : step s = .next s := by
  simp only [step, hq, if_pos hturn]

/-- A block that waits for a store takes no action of the host but hardware reset (R235, R236). -/
theorem step_of_waiting {s : State} (hturn : s.turn ≠ .host) (hrst : ∀ cbInit q, s.hostq ≠ .rst cbInit :: q) :
    step s = .fault .storeSilent := by
  cases hq : s.hostq with
  | nil => simp only [step, hq, if_neg hturn]
  | cons e q =>
    cases e with
    | rst cbInit => exact absurd hq (hrst cbInit q)
    | cmd c => simp only [step, hq, if_neg hturn]
    | bind st r w => simp only [step, hq, if_neg hturn]

/-! ### Reset and the two commands that reset -/

/-- CHRESET leaves the channel, and TBLRESET the table, as hardware reset does; the rest of hardware reset is the
buffer, the responses and the end of a running command (R220, R221). -/
theorem hardReset_eq_chreset_tblreset (s : State) (cbInit : List Byte) (q : List HostEvent) :
    ∃ u v, exec .chreset s = .next u ∧ exec .tblreset u = .next v ∧
      (s.taken q).hardReset cbInit =
        { v with cb := cbInit, rStat := 0, rBits := 0, rByte := 0, rVal := 0, rIdx := 0, hostq := q, turn := .host } :=
  ⟨_, _, rfl, rfl, rfl⟩

/-! ### The obligations -/

/-- Settles O7: with no action queued an idle block stays as it is. -/
theorem idleBlockWaits : Obligations.IdleBlockWaits :=
  fun _ hturn hq => step_of_idle hturn hq

/-- Settles O8: every action of the host but hardware reset is stopped by the wait, and hardware reset gives the turn
back to the host. -/
theorem silentStoreLeavesOnlyReset : Obligations.SilentStoreLeavesOnlyReset :=
  fun s hturn => ⟨step_of_waiting hturn, fun cbInit q hq => ⟨_, step_of_rst hq, hardReset_turn (s.taken q) cbInit⟩⟩

/-- Settles O9: the step is `State.hardReset`, whose registers are read off, and which is the two commands and the
cleared responses. -/
theorem hardwareResetSetsEveryRegister : Obligations.HardwareResetSetsEveryRegister := by
  intro s cbInit q hq
  obtain ⟨u, v, hchreset, htblreset, hstate⟩ := hardReset_eq_chreset_tblreset s cbInit q
  have hentries : ((s.taken q).hardReset cbInit).entries = [] :=
    entries_eq_nil_of_tsize_eq_zero (hardReset_tsize (s.taken q) cbInit)
  refine ⟨_, u, v, step_of_rst hq, ?_⟩
  simp only [hardReset_rpos, hardReset_pbits, hardReset_pcnt, hardReset_chPoison, hardReset_tsize, hardReset_tcap,
    hardReset_tFatal, hardReset_rStat, hardReset_rBits, hardReset_rByte, hardReset_rVal, hardReset_rIdx, hardReset_cb,
    hardReset_stores, taken_stores, true_and]
  exact ⟨hentries, hchreset, htblreset, hstate⟩

end Sys2Proof.Machine
end
